-- ==== Sys2Proof/Word.lean ====
section
/-!
DEFINITION. The word types of chip8_interpreter. Every value of the hardware is unsigned and bit 0 is the
least significant bit (00_scope.md R9).
-/

namespace Sys2Proof

/-- A memory byte, a general register, a timer (10_state.md R20, R31, R37). -/
abbrev Byte := BitVec 8

/-- An instruction word, a stack entry, the container of `pc` and `I` (10_state.md R23, R34, R36). -/
abbrev Word16 := BitVec 16

/-- A 4-bit field: a register number, a sprite height, a key (30_encoding.md R72). -/
abbrev Nibble := BitVec 4

/-- A 12-bit address field `NNN` (30_encoding.md R72). -/
abbrev Addr12 := BitVec 12

end Sys2Proof
end

