-- ==== Sys2Proof/Syntax.lean ====
section
/-!
DEFINITION. The instructions: one constructor for each of the 35 rows of spec/opcode_table.json, in the table's
order (30_encoding.md R76). A field the operation ignores is kept (`n` of `seReg`, `sneReg`; `y` of `shr`, `shl`;
R78, R80), so that no bit of an encoding is lost.
-/

namespace Sys2Proof

/-- One instruction with its operand fields; each docstring gives the pattern and the rule. -/
inductive Instr where
  /-- `0nnn` other than `00E0`, `00EE`; 40_flow.md R100. -/
  | sys (nnn : Addr12)
  /-- `00E0`; 44_display.md R150. -/
  | cls
  /-- `00EE`; 40_flow.md R101. -/
  | ret
  /-- `1nnn`; 40_flow.md R102. -/
  | jp (nnn : Addr12)
  /-- `2nnn`; 40_flow.md R103. -/
  | call (nnn : Addr12)
  /-- `3xkk`; 41_skips.md R110. -/
  | seImm (x : Nibble) (kk : Byte)
  /-- `4xkk`; 41_skips.md R111. -/
  | sneImm (x : Nibble) (kk : Byte)
  /-- `5xy-`; 41_skips.md R112. -/
  | seReg (x y n : Nibble)
  /-- `6xkk`; 42_alu.md R120. -/
  | ldImm (x : Nibble) (kk : Byte)
  /-- `7xkk`; 42_alu.md R121. -/
  | addImm (x : Nibble) (kk : Byte)
  /-- `8xy0`; 42_alu.md R122. -/
  | ldReg (x y : Nibble)
  /-- `8xy1`; 42_alu.md R123. -/
  | orReg (x y : Nibble)
  /-- `8xy2`; 42_alu.md R124. -/
  | andReg (x y : Nibble)
  /-- `8xy3`; 42_alu.md R125. -/
  | xorReg (x y : Nibble)
  /-- `8xy4`; 42_alu.md R126. -/
  | addReg (x y : Nibble)
  /-- `8xy5`; 42_alu.md R127. -/
  | sub (x y : Nibble)
  /-- `8xy6`; 42_alu.md R128. -/
  | shr (x y : Nibble)
  /-- `8xy7`; 42_alu.md R129. -/
  | subn (x y : Nibble)
  /-- `8xyE`; 42_alu.md R130. -/
  | shl (x y : Nibble)
  /-- `9xy-`; 41_skips.md R113. -/
  | sneReg (x y n : Nibble)
  /-- `Annn`; 43_index_memory.md R140. -/
  | ldI (nnn : Addr12)
  /-- `Bnnn`; 40_flow.md R104. -/
  | jpV0 (nnn : Addr12)
  /-- `Cxkk`; 42_alu.md R131. -/
  | rnd (x : Nibble) (kk : Byte)
  /-- `Dxyn`; 44_display.md R151. -/
  | drw (x y n : Nibble)
  /-- `Ex9E`; 41_skips.md R114. -/
  | skp (x : Nibble)
  /-- `ExA1`; 41_skips.md R115. -/
  | sknp (x : Nibble)
  /-- `Fx07`; 45_timers_keys.md R160. -/
  | ldVxDT (x : Nibble)
  /-- `Fx0A`; 45_timers_keys.md R161. -/
  | ldVxK (x : Nibble)
  /-- `Fx15`; 45_timers_keys.md R162. -/
  | ldDTVx (x : Nibble)
  /-- `Fx18`; 45_timers_keys.md R163. -/
  | ldSTVx (x : Nibble)
  /-- `Fx1E`; 43_index_memory.md R141. -/
  | addI (x : Nibble)
  /-- `Fx29`; 43_index_memory.md R142. -/
  | ldF (x : Nibble)
  /-- `Fx33`; 43_index_memory.md R143. -/
  | ldB (x : Nibble)
  /-- `Fx55`, `LD [I], Vx`; 43_index_memory.md R144. -/
  | dump (x : Nibble)
  /-- `Fx65`, `LD Vx, [I]`; 43_index_memory.md R145. -/
  | load (x : Nibble)
  deriving DecidableEq, Repr

end Sys2Proof
end

