-- ==== Sys2Proof/Decode.lean ====
section
/-!
DEFINITION. Decoding, total on any bytes and rejecting by name, and after it the encoder and the mask and match of each
row (30_encoding.md R71 to R79, R85). The decode looks at the word alone (R71).
-/

namespace Sys2Proof

/-- Why bytes are no instruction: the three groups of 30_encoding.md R79, or too few bytes for a word. -/
inductive Undefined where
  /-- `8xyn` with `N` one of 8, 9, 0xA, 0xB, 0xC, 0xD, 0xF. -/
  | family8 (w : Word16)
  /-- `Exkk` with `NN` neither 0x9E nor 0xA1. -/
  | familyE (w : Word16)
  /-- `Fxkk` with `NN` none of the nine of R77. -/
  | familyF (w : Word16)
  /-- Fewer than two bytes: an instruction is two (R72). -/
  | truncated
  deriving DecidableEq, Repr

/-- `op = w[15:12]` (R72). -/
def fieldOp (w : Word16) : Nibble := w.extractLsb' 12 4

/-- `X = w[11:8]` (R72). -/
def fieldX (w : Word16) : Nibble := w.extractLsb' 8 4

/-- `Y = w[7:4]` (R72). -/
def fieldY (w : Word16) : Nibble := w.extractLsb' 4 4

/-- `N = w[3:0]` (R72). -/
def fieldN (w : Word16) : Nibble := w.extractLsb' 0 4

/-- `NN = w[7:0]` (R72). -/
def fieldNN (w : Word16) : Byte := w.extractLsb' 0 8

/-- `NNN = w[11:0]` (R72). -/
def fieldNNN (w : Word16) : Addr12 := w.extractLsb' 0 12

/-- The big-endian word of two bytes, the first the high one (20_memory.md R52). -/
def wordOfBytes (hi lo : Byte) : Word16 := BitVec.ofNat 16 (hi.toNat * 256 + lo.toNat)

/-- `w[15:8]`, the byte at the lower address (R85). -/
def highByte (w : Word16) : Byte := w.extractLsb' 8 8

/-- `w[7:0]`, the byte at the next address (R85). -/
def lowByte (w : Word16) : Byte := w.extractLsb' 0 8

/-- Family 0: the whole word is compared (R77). -/
def decode0 (w : Word16) : Instr :=
  if w = 0x00E0#16 then .cls
  else if w = 0x00EE#16 then .ret
  else .sys (fieldNNN w)

/-- Family 8: `N` selects among nine values (R77). -/
def decode8 (w : Word16) : Except Undefined Instr :=
  match (fieldN w).toNat with
  | 0x0 => .ok (.ldReg (fieldX w) (fieldY w))
  | 0x1 => .ok (.orReg (fieldX w) (fieldY w))
  | 0x2 => .ok (.andReg (fieldX w) (fieldY w))
  | 0x3 => .ok (.xorReg (fieldX w) (fieldY w))
  | 0x4 => .ok (.addReg (fieldX w) (fieldY w))
  | 0x5 => .ok (.sub (fieldX w) (fieldY w))
  | 0x6 => .ok (.shr (fieldX w) (fieldY w))
  | 0x7 => .ok (.subn (fieldX w) (fieldY w))
  | 0xE => .ok (.shl (fieldX w) (fieldY w))
  | _ => .error (.family8 w)

/-- Family E: `NN` selects `0x9E` or `0xA1` (R77). -/
def decodeE (w : Word16) : Except Undefined Instr :=
  match (fieldNN w).toNat with
  | 0x9E => .ok (.skp (fieldX w))
  | 0xA1 => .ok (.sknp (fieldX w))
  | _ => .error (.familyE w)

/-- Family F: `NN` selects among nine values (R77). -/
def decodeF (w : Word16) : Except Undefined Instr :=
  match (fieldNN w).toNat with
  | 0x07 => .ok (.ldVxDT (fieldX w))
  | 0x0A => .ok (.ldVxK (fieldX w))
  | 0x15 => .ok (.ldDTVx (fieldX w))
  | 0x18 => .ok (.ldSTVx (fieldX w))
  | 0x1E => .ok (.addI (fieldX w))
  | 0x29 => .ok (.ldF (fieldX w))
  | 0x33 => .ok (.ldB (fieldX w))
  | 0x55 => .ok (.dump (fieldX w))
  | 0x65 => .ok (.load (fieldX w))
  | _ => .error (.familyF w)

/-- Dispatch on the top 4 bits, then on secondary fields for families 0, 8, E, F (R71, R77, R78). The last arm is
`op = 0xF`, the only value of a nibble left. -/
def decodeWord (w : Word16) : Except Undefined Instr :=
  match (fieldOp w).toNat with
  | 0x0 => .ok (decode0 w)
  | 0x1 => .ok (.jp (fieldNNN w))
  | 0x2 => .ok (.call (fieldNNN w))
  | 0x3 => .ok (.seImm (fieldX w) (fieldNN w))
  | 0x4 => .ok (.sneImm (fieldX w) (fieldNN w))
  | 0x5 => .ok (.seReg (fieldX w) (fieldY w) (fieldN w))
  | 0x6 => .ok (.ldImm (fieldX w) (fieldNN w))
  | 0x7 => .ok (.addImm (fieldX w) (fieldNN w))
  | 0x8 => decode8 w
  | 0x9 => .ok (.sneReg (fieldX w) (fieldY w) (fieldN w))
  | 0xA => .ok (.ldI (fieldNNN w))
  | 0xB => .ok (.jpV0 (fieldNNN w))
  | 0xC => .ok (.rnd (fieldX w) (fieldNN w))
  | 0xD => .ok (.drw (fieldX w) (fieldY w) (fieldN w))
  | 0xE => decodeE w
  | _ => decodeF w

/-- The instruction at the head of a list of bytes, and the bytes after it (R72: every instruction is two bytes). -/
def decode : List Byte → Except Undefined (Instr × List Byte)
  | hi :: lo :: rest =>
    match decodeWord (wordOfBytes hi lo) with
    | .ok i => .ok (i, rest)
    | .error e => .error e
  | [_] => .error .truncated
  | [] => .error .truncated

/-! ### The encoder (R85) -/

/-- Format `A`: `op` and a 12-bit address (R73). -/
def formatA (op : Nat) (nnn : Addr12) : Word16 := BitVec.ofNat 16 (op * 4096 + nnn.toNat)

/-- Format `XNN`, and `XF` with a fixed `fn` (R73). -/
def formatXNN (op : Nat) (x : Nibble) (kk : Byte) : Word16 := BitVec.ofNat 16 (op * 4096 + x.toNat * 256 + kk.toNat)

/-- Format `XYN` (R73). -/
def formatXYN (op : Nat) (x y n : Nibble) : Word16 :=
  BitVec.ofNat 16 (op * 4096 + x.toNat * 256 + y.toNat * 16 + n.toNat)

/-- The word of an instruction, row by row of the table of R76. -/
def encode (i : Instr) : Word16 :=
  match i with
  | .sys nnn => formatA 0x0 nnn
  | .cls => 0x00E0#16
  | .ret => 0x00EE#16
  | .jp nnn => formatA 0x1 nnn
  | .call nnn => formatA 0x2 nnn
  | .seImm x kk => formatXNN 0x3 x kk
  | .sneImm x kk => formatXNN 0x4 x kk
  | .seReg x y n => formatXYN 0x5 x y n
  | .ldImm x kk => formatXNN 0x6 x kk
  | .addImm x kk => formatXNN 0x7 x kk
  | .ldReg x y => formatXYN 0x8 x y 0x0#4
  | .orReg x y => formatXYN 0x8 x y 0x1#4
  | .andReg x y => formatXYN 0x8 x y 0x2#4
  | .xorReg x y => formatXYN 0x8 x y 0x3#4
  | .addReg x y => formatXYN 0x8 x y 0x4#4
  | .sub x y => formatXYN 0x8 x y 0x5#4
  | .shr x y => formatXYN 0x8 x y 0x6#4
  | .subn x y => formatXYN 0x8 x y 0x7#4
  | .shl x y => formatXYN 0x8 x y 0xE#4
  | .sneReg x y n => formatXYN 0x9 x y n
  | .ldI nnn => formatA 0xA nnn
  | .jpV0 nnn => formatA 0xB nnn
  | .rnd x kk => formatXNN 0xC x kk
  | .drw x y n => formatXYN 0xD x y n
  | .skp x => formatXNN 0xE x 0x9E#8
  | .sknp x => formatXNN 0xE x 0xA1#8
  | .ldVxDT x => formatXNN 0xF x 0x07#8
  | .ldVxK x => formatXNN 0xF x 0x0A#8
  | .ldDTVx x => formatXNN 0xF x 0x15#8
  | .ldSTVx x => formatXNN 0xF x 0x18#8
  | .addI x => formatXNN 0xF x 0x1E#8
  | .ldF x => formatXNN 0xF x 0x29#8
  | .ldB x => formatXNN 0xF x 0x33#8
  | .dump x => formatXNN 0xF x 0x55#8
  | .load x => formatXNN 0xF x 0x65#8

/-- The two bytes of an instruction as memory holds them (R85). -/
def encodeBytes (i : Instr) : List Byte := [highByte (encode i), lowByte (encode i)]

/-- The columns `mask` and `match` of an instruction's row in the table of R76. A word selects the row when
`w &&& mask = match`; `SYS` besides only when the word is neither `0x00E0` nor `0x00EE`. -/
def rowMaskMatch (i : Instr) : Word16 × Word16 :=
  match i with
  | .sys _ => (0xF000#16, 0x0000#16)
  | .cls => (0xFFFF#16, 0x00E0#16)
  | .ret => (0xFFFF#16, 0x00EE#16)
  | .jp _ => (0xF000#16, 0x1000#16)
  | .call _ => (0xF000#16, 0x2000#16)
  | .seImm _ _ => (0xF000#16, 0x3000#16)
  | .sneImm _ _ => (0xF000#16, 0x4000#16)
  | .seReg _ _ _ => (0xF000#16, 0x5000#16)
  | .ldImm _ _ => (0xF000#16, 0x6000#16)
  | .addImm _ _ => (0xF000#16, 0x7000#16)
  | .ldReg _ _ => (0xF00F#16, 0x8000#16)
  | .orReg _ _ => (0xF00F#16, 0x8001#16)
  | .andReg _ _ => (0xF00F#16, 0x8002#16)
  | .xorReg _ _ => (0xF00F#16, 0x8003#16)
  | .addReg _ _ => (0xF00F#16, 0x8004#16)
  | .sub _ _ => (0xF00F#16, 0x8005#16)
  | .shr _ _ => (0xF00F#16, 0x8006#16)
  | .subn _ _ => (0xF00F#16, 0x8007#16)
  | .shl _ _ => (0xF00F#16, 0x800E#16)
  | .sneReg _ _ _ => (0xF000#16, 0x9000#16)
  | .ldI _ => (0xF000#16, 0xA000#16)
  | .jpV0 _ => (0xF000#16, 0xB000#16)
  | .rnd _ _ => (0xF000#16, 0xC000#16)
  | .drw _ _ _ => (0xF000#16, 0xD000#16)
  | .skp _ => (0xF0FF#16, 0xE09E#16)
  | .sknp _ => (0xF0FF#16, 0xE0A1#16)
  | .ldVxDT _ => (0xF0FF#16, 0xF007#16)
  | .ldVxK _ => (0xF0FF#16, 0xF00A#16)
  | .ldDTVx _ => (0xF0FF#16, 0xF015#16)
  | .ldSTVx _ => (0xF0FF#16, 0xF018#16)
  | .addI _ => (0xF0FF#16, 0xF01E#16)
  | .ldF _ => (0xF0FF#16, 0xF029#16)
  | .ldB _ => (0xF0FF#16, 0xF033#16)
  | .dump _ => (0xF0FF#16, 0xF055#16)
  | .load _ => (0xF0FF#16, 0xF065#16)

/-! ### The opcode table's numbering -/

/-- The bytes of a word numbered as spec/opcode_table.json numbers it: bits `nbits - 1` to 0 of the one 16-bit word, bits
above `nbits` zero, high byte first in memory (R52, R72). -/
def tableBytes (nbits w : Nat) : List Byte :=
  let word := BitVec.ofNat 16 (w % 2 ^ nbits)
  [highByte word, lowByte word]

/-- What the decoder reads from an instruction whose table bits are `w`. -/
def decodeTableWord (nbits w : Nat) : Option Instr :=
  match decode (tableBytes nbits w) with
  | .ok (i, _) => some i
  | .error _ => none

end Sys2Proof
end

