-- ==== Sys2Proof/Config.lean ====
section
/-!
DEFINITION. What is fixed for the machine: the parameters of 00_scope.md R6 and R7 that are numbers, the font table the
spec suggests, and the FREE VALUES, which have no body, so that nothing in Lean can evaluate them.
-/

namespace Sys2Proof.Config

/-- `MEM_SIZE` (00_scope.md R6). -/
def memSize : Nat := 4096

/-- `STACK_DEPTH` (R6). -/
def stackDepth : Nat := 16

/-- `PC_RESET` (R6; 10_state.md R23, R26). -/
def pcReset : Word16 := 0x200#16

/-- `LOAD_OFFSET`, the loader's default destination (R7; 70_reset_and_hazards.md R203). -/
def loadOffset : Nat := 512

/-- `FONT_LO_BASE` and `FONT_LO_GLYPH_BYTES` (R6). -/
def fontLoBase : Nat := 0x000
def fontLoGlyphBytes : Nat := 5

/-- `FONT_HI_BASE` and `FONT_HI_GLYPH_BYTES` (R6). -/
def fontHiBase : Nat := 0x050
def fontHiGlyphBytes : Nat := 10

/-- `MEM_FILL`: what memory outside the fonts holds after reset (10_state.md R31; D17, log 6). -/
def memFill : Byte := 0x00#8

/-- `DISPLAY_RESET`, `KEYS_RESET`, `DRAWN_RESET` (R7; D17, log 6). -/
def displayReset : Bool := false
def keysReset : Bool := false
def drawnReset : Bool := false

/-- `FONT_LO`, the value the spec suggests for the parameter: the customary table of 10_state.md R32, glyph `d` at
`5 * d` (UNVERIFIED, log 3). -/
def fontLo : Vector Byte 80 :=
  ⟨#[0xF0#8, 0x90#8, 0x90#8, 0x90#8, 0xF0#8,  0x20#8, 0x60#8, 0x20#8, 0x20#8, 0x70#8] ++
   #[0xF0#8, 0x10#8, 0xF0#8, 0x80#8, 0xF0#8,  0xF0#8, 0x10#8, 0xF0#8, 0x10#8, 0xF0#8] ++
   #[0x90#8, 0x90#8, 0xF0#8, 0x10#8, 0x10#8,  0xF0#8, 0x80#8, 0xF0#8, 0x10#8, 0xF0#8] ++
   #[0xF0#8, 0x80#8, 0xF0#8, 0x90#8, 0xF0#8,  0xF0#8, 0x10#8, 0x20#8, 0x40#8, 0x40#8] ++
   #[0xF0#8, 0x90#8, 0xF0#8, 0x90#8, 0xF0#8,  0xF0#8, 0x90#8, 0xF0#8, 0x10#8, 0xF0#8] ++
   #[0xF0#8, 0x90#8, 0xF0#8, 0x90#8, 0x90#8,  0xE0#8, 0x90#8, 0xE0#8, 0x90#8, 0xE0#8] ++
   #[0xF0#8, 0x80#8, 0x80#8, 0x80#8, 0xF0#8,  0xE0#8, 0x90#8, 0x90#8, 0x90#8, 0xE0#8] ++
   #[0xF0#8, 0x80#8, 0xF0#8, 0x80#8, 0xF0#8,  0xF0#8, 0x80#8, 0xF0#8, 0x80#8, 0x80#8], rfl⟩

/-- FREE VALUE. `FONT_HI`: byte `k` of the high-resolution font as installed at initialisation, fixed for the run, under
no law (10_state.md R33; D18, U6; log 2). -/
opaque fontHi : Nat → Byte

/-- FREE VALUE. `RAND`: the byte of the `n`-th draw from the pseudo-random source, under no law (10_state.md R41,
42_alu.md R131; D16, U7, U12; log 4). -/
opaque randByte : Nat → Byte

/-- FREE VALUE. `KEY_SELECT`: which of several pressed keys the `n`-th key-wait that finds a key records; it is reduced
modulo their number, so that it is always one of them (45_timers_keys.md R161; D15, U8; log 5). -/
opaque keyChoice : Nat → Nat

end Sys2Proof.Config
end

