-- ==== Sys2Proof/Machine/State.lean ====
section
/-!
DEFINITION. The machine's state as plain data, everything spec/10_state.md gives it (R20 to R44), the ways a step can
stop, and the state after reset (70_reset_and_hazards.md R200).
-/

namespace Sys2Proof.Machine

/-- The parameters `FONT_LO` and `FONT_HI` as the interpreter was initialised with them (10_state.md R32, R33). The
MODEL's own field: no instruction reads or writes it but through memory bytes that nothing has written (log 2, log 3). -/
structure Fonts where
  /-- Bytes 0x000..0x04F at initialisation. -/
  lo : Vector Byte 80
  /-- Bytes 0x050..0x0EF at initialisation. -/
  hi : Vector Byte 160
  deriving DecidableEq, Repr

/-- Memory: the bytes written with another value than an unlisted address reads as, addresses strictly rising
(10_state.md R31; log 27). -/
abbrev Memory := List Host.Cell

/-- The display, 32 rows of 64 cells; row `y`, column `x` (10_state.md R42). -/
abbrev Display := Vector (Vector Bool 64) 32

/-- The three faults of 60_exceptions.md R170, R171. -/
inductive Cause where
  | unknownOpcode
  | stackOverflow
  | stackUnderflow
  deriving DecidableEq, Repr

/-- The fault record `(cause, word, pc)` (10_state.md R39). -/
structure Diag where
  cause : Cause
  /-- The instruction word as fetched (60_exceptions.md R171). -/
  word : Word16
  /-- The address it was fetched from. -/
  pc : Word16
  deriving DecidableEq, Repr

/-- What the host may do to the machine between cycles, once it runs (60_exceptions.md R192). -/
inductive HostEvent where
  | pressKey (k : Nibble)
  | releaseKey (k : Nibble)
  | clearDrawn
  deriving DecidableEq, Repr

/-- Everything the spec gives the machine (10_state.md), and three fields of the model's own at the end. -/
structure State where
  /-- `V[0..15]`; `VF` is `V[15]`, the only flag register (R20, R27). -/
  v : Vector Byte 16
  /-- The index register's 16-bit container (R34). -/
  i : Word16
  /-- The program counter's 16-bit container (R23). -/
  pc : Word16
  /-- The number of stack entries in use, 0..16 (R36). -/
  sp : Fin 17
  /-- The return addresses; not in memory (R36). -/
  stack : Vector Word16 16
  /-- The delay timer `DT` (R37). -/
  dt : Byte
  /-- The sound timer `ST` (R37). -/
  st : Byte
  /-- `Mem[0..4095]` (R31). -/
  mem : Memory
  /-- `disp[x, y]` (R42). -/
  disp : Display
  /-- The input latch, true when pressed (R43). -/
  key : Vector Bool 16
  /-- The dirty flag (R40). -/
  drawn : Bool
  /-- True while the run may continue (R38). -/
  alive : Bool
  /-- The fault report (R39). -/
  diag : Option Diag
  /-- The audio trigger of the last cycle (R44). -/
  trigger : Bool
  /-- Stand-in for the hidden PRNG state: how many bytes have been drawn (R41; log 4). -/
  draws : Nat
  /-- The model's own: how many keys the key-wait has recorded (R161; log 5). -/
  picks : Nat
  /-- The model's own: the fonts as installed (R32, R33; log 2, log 3). -/
  fonts : Fonts
  /-- The model's own: what the host does before each coming cycle, the next one first; an empty list is a host that only
  requests cycles (60_exceptions.md R192; log 10). -/
  agenda : List (List HostEvent)
  deriving DecidableEq, Repr

/-- The reasons a cycle could stop the model itself. There is none: no memory access can fault (20_memory.md R51), and the
three faults of the hardware are state changes its fault entry describes (60_exceptions.md R174), so they are next
states (log 9). -/
inductive Fault where
  deriving DecidableEq, Repr

/-- The reasons the model gives an instruction no meaning. -/
inductive Refusal where
  /-- Raised by `exec`'s arm of an instruction that has no meaning yet; no arm is so now. Safe: the model stops where the
  hardware goes on. -/
  | notModelled (mnemonic : String)
  deriving DecidableEq, Repr

/-- The fonts a reset machine has: the customary `FONT_LO`, and `FONT_HI` free (D18). -/
def Fonts.reset : Fonts where
  lo := Config.fontLo
  hi := ⟨((List.range 160).map Config.fontHi).toArray, by simp⟩

/-- The machine right after reset (70_reset_and_hazards.md R200). -/
def State.reset : State where
  v := Vector.replicate 16 0x00#8
  i := 0x000#16
  pc := Config.pcReset
  sp := 0
  stack := Vector.replicate 16 0x0000#16
  dt := 0x00#8
  st := 0x00#8
  mem := []
  disp := Vector.replicate 32 (Vector.replicate 64 Config.displayReset)
  key := Vector.replicate 16 Config.keysReset
  drawn := Config.drawnReset
  alive := true
  diag := none
  trigger := false
  draws := 0
  picks := 0
  fonts := Fonts.reset
  agenda := []

end Sys2Proof.Machine
end

