-- ==== Sys2Proof/Machine/Ops.lean ====
section
/-!
DEFINITION. The named operations over registers, memory, the call stack and the display, fault entry, the timer tick and
the host's turn. Every instruction's meaning is written over these.
-/

namespace Sys2Proof.Machine

/-! ### Addresses, registers, `I` and `pc` -/

/-- An address reduced to its 12 significant bits, in a 16-bit container: what every write of `pc` and `I` stores
(10_state.md R23, R34). -/
def addr16 (a : Nat) : Word16 := BitVec.ofNat 16 (a % 4096)

/-- `V[x]` (R20, R21). -/
def State.getV (s : State) (x : Nibble) : Byte := s.v[x.toNat]'x.isLt

/-- `V[x] <- b` (R21). -/
def State.setV (s : State) (x : Nibble) (b : Byte) : State := { s with v := s.v.set x.toNat b x.isLt }

/-- The number of `VF` (R20). -/
def regVF : Nibble := 0xF#4

/-- `I <- a` (R34). -/
def State.setI (s : State) (a : Nat) : State := { s with i := addr16 a }

/-- `pc <- target` (R23). -/
def State.setPc (s : State) (target : Nat) : State := { s with pc := addr16 target }

/-- The generic advance, `pc <- (pc + 2) mod 4096` (R25). -/
def State.advance (s : State) : State := s.setPc (s.pc.toNat + 2)

/-- A taken skip, `pc <- (pc + 4) mod 4096` (R25, R26). -/
def State.skip (s : State) : State := s.setPc (s.pc.toNat + 4)

/-- A conditional skip: by 4 when the condition holds, else the generic advance (R25). -/
def State.skipIf (s : State) (c : Bool) : State := if c then s.skip else s.advance

/-! ### Memory (20_memory.md) -/

/-- What an address that nothing has changed reads as: the fonts as installed, else the zero fill (10_state.md R31 to R33,
20_memory.md R60). The argument is below 4096. -/
def Memory.unlisted (f : Fonts) (a : Nat) : Byte :=
  if lo : a < 80 then f.lo[a]
  else if hi : a - 80 < 160 then f.hi[a - 80]
  else Config.memFill

/-- The byte listed for an address, if any. -/
def Memory.lookup : Memory → Nat → Option Byte
  | [], _ => none
  | (b, v) :: m, a => if b = a then some v else Memory.lookup m a

/-- A cell put before the first cell of a higher address. -/
def Memory.place (a : Nat) (v : Byte) : Memory → Memory
  | [] => [(a, v)]
  | c :: m => if a < c.1 then (a, v) :: c :: m else c :: Memory.place a v m

/-- `MemRead(a, 1)`: the address is reduced, nothing faults (20_memory.md R50, R51). -/
def Memory.read (f : Fonts) (m : Memory) (a : Nat) : Byte :=
  (Memory.lookup m (a % 4096)).getD (Memory.unlisted f (a % 4096))

/-- `MemWrite(a, 1, v)` (20_memory.md R50, R51). Writing the value an unlisted address reads as leaves no entry. -/
def Memory.write (f : Fonts) (m : Memory) (a : Nat) (v : Byte) : Memory :=
  let rest := m.filter (fun c => c.1 != a % 4096)
  if v = Memory.unlisted f (a % 4096) then rest else Memory.place (a % 4096) v rest

/-- The canonical form: addresses strictly rising and below 4096, no entry equal to what an unlisted address reads as. -/
abbrev Memory.wf (f : Fonts) (m : Memory) : Prop :=
  m.Pairwise (fun c d => c.1 < d.1) ∧ ∀ c ∈ m, c.1 < 4096 ∧ c.2 ≠ Memory.unlisted f c.1

/-- `MemRead(a, 1)` of the machine's memory. -/
def State.readByte (s : State) (a : Nat) : Byte := Memory.read s.fonts s.mem a

/-- `MemWrite(a, 1, v)` on the machine's memory. -/
def State.writeByte (s : State) (a : Nat) (v : Byte) : State := { s with mem := Memory.write s.fonts s.mem a v }

/-- The fetch, `MemRead(pc, 2)`: big-endian, the second address reduced on its own (20_memory.md R52, R56;
30_encoding.md R70). -/
def State.fetchWord (s : State) : Word16 := wordOfBytes (s.readByte s.pc.toNat) (s.readByte (s.pc.toNat + 1))

/-- The first `n` registers stored at `I`, `I + 1`, ..., in ascending order (43_index_memory.md R144). -/
def State.storeRegs : Nat → State → State
  | 0, s => s
  | n + 1, s =>
    let t := State.storeRegs n s
    t.writeByte (t.i.toNat + n) (t.getV (BitVec.ofNat 4 n))

/-- The first `n` registers loaded from `I`, `I + 1`, ..., in ascending order (43_index_memory.md R145). -/
def State.loadRegs : Nat → State → State
  | 0, s => s
  | n + 1, s =>
    let t := State.loadRegs n s
    t.setV (BitVec.ofNat 4 n) (t.readByte (t.i.toNat + n))

/-! ### The call stack (10_state.md R36) -/

/-- A return address pushed at `stack[sp]`; none when all 16 entries are in use (40_flow.md R103). -/
def State.push (s : State) (ret : Nat) : Option State :=
  if room : s.sp.val < 16 then
    some { s with stack := s.stack.set s.sp.val (addr16 ret) room, sp := ⟨s.sp.val + 1, by omega⟩ }
  else none

/-- The last pushed entry and the state without it; the entry keeps its value. None when no entry is in use
(40_flow.md R101). -/
def State.pop (s : State) : Option (Word16 × State) :=
  if used : 0 < s.sp.val then
    some (s.stack[s.sp.val - 1]'(by omega), { s with sp := ⟨s.sp.val - 1, by omega⟩ })
  else none

/-! ### Faults (60_exceptions.md R171, R174) -/

/-- `CAUSE_CODES` (60_exceptions.md R171; D8). -/
def causeCode : Cause → Nat
  | .unknownOpcode => 1
  | .stackOverflow => 2
  | .stackUnderflow => 3

/-- `FAULT_PC`: what a fault does to `pc`; it is left unchanged (60_exceptions.md R174; D7, log 17). -/
def faultPc (pc : Word16) : Word16 := pc

/-- `raise F(w, pc)`: exactly `alive <- 0` and `diag <- (code, w, pc)`; `pc` is not advanced (60_exceptions.md R174). -/
def State.raise (s : State) (c : Cause) (w : Word16) : State :=
  { s with pc := faultPc s.pc, alive := false, diag := some { cause := c, word := w, pc := s.pc } }

/-- `STACK_POLICY`: what a call beyond 16 levels and a return on an empty stack do; they raise their fault
(60_exceptions.md R173; D6, log 16). -/
def State.stackPolicy (s : State) (c : Cause) (w : Word16) : State := s.raise c w

/-! ### The display (10_state.md R42) -/

/-- `disp[x, y]`. -/
def cell (d : Display) (x : Fin 64) (y : Fin 32) : Bool := d[y][x]

/-- `disp[x, y] <- b`. -/
def setCell (d : Display) (x : Fin 64) (y : Fin 32) (b : Bool) : Display := d.set y.val (d[y].set x.val b)

/-- The display with every cell 0 (44_display.md R150). -/
def blankDisplay : Display := Vector.replicate 32 (Vector.replicate 64 false)

/-! ### Free values (10_state.md R41; 45_timers_keys.md R161) -/

/-- `draw_byte()`: a fresh byte under no law, and the state in which it has been drawn (00_scope.md R11; log 4). -/
def State.drawByte (s : State) : Byte × State := (Config.randByte s.draws, { s with draws := s.draws + 1 })

/-! ### The timer unit (60_exceptions.md R184) -/

/-- One timer's decrement, floor at 0. -/
def decTimer (t : Byte) : Byte := if t = 0x00#8 then 0x00#8 else t - 1#8

/-- The tick: both timers decrement if positive, and the trigger is raised when the sound timer is 1 before its
decrement (60_exceptions.md R184, R186). -/
def State.tick (s : State) : State :=
  { s with dt := decTimer s.dt, st := decTimer s.st, trigger := s.trigger || s.st == 0x01#8 }

/-- `trigger <- 0`, the start of every cycle (00_scope.md R13; 10_state.md R44). -/
def State.clearTrigger (s : State) : State := { s with trigger := false }

/-! ### The host (60_exceptions.md R192) -/

/-- `key[k] <- down`, the host's write of the input latch. -/
def State.setKey (s : State) (k : Nibble) (down : Bool) : State := { s with key := s.key.set k.toNat down k.isLt }

/-- `key[k]` (10_state.md R43). -/
def State.keyDown (s : State) (k : Nibble) : Bool := s.key[k.toNat]'k.isLt

/-- One action of the host (60_exceptions.md R192). -/
def State.hostEvent (s : State) : HostEvent → State
  | .pressKey k => s.setKey k true
  | .releaseKey k => s.setKey k false
  | .clearDrawn => { s with drawn := false }

/-- What the host does before the coming cycle: the head of the agenda, in order (00_scope.md R12; log 10). -/
def State.hostTurn (s : State) : State :=
  match s.agenda with
  | [] => s
  | events :: rest => events.foldl State.hostEvent { s with agenda := rest }

end Sys2Proof.Machine
end

