-- ==== Sys2Proof/Machine/Boot.lean ====
section
/-!
DEFINITION. The host's actions before the first cycle: reset of a live interpreter and the program loader
(70_reset_and_hazards.md R200 to R206; log 1, log 11).
-/

namespace Sys2Proof.Machine

/-- The loader: bytes copied to ascending addresses with wraparound; only memory changes (70_reset_and_hazards.md R203). -/
def State.loadBytes : List Byte → Nat → State → State
  | [], _, s => s
  | b :: bytes, offset, s => State.loadBytes bytes (offset + 1) (s.writeByte offset b)

/-- Reset applied again: the interpreter is discarded and a new one created (R201). The fonts are those the machine has,
the free values go on (a new seed is not the old one), and the host's agenda is the host's. -/
def State.reinitialise (s : State) : State :=
  { State.reset with fonts := s.fonts, draws := s.draws, picks := s.picks, agenda := s.agenda }

/-- The boot order: reset, load at the default offset, then the host's agenda of keys and cycles (R206). -/
def boot (program : List Byte) (agenda : List (List HostEvent)) : State :=
  { State.loadBytes program Config.loadOffset State.reset with agenda := agenda }

end Sys2Proof.Machine
end

