-- ==== Sys2Proof/Machine/Operands.lean ====
section
/-!
DEFINITION. The operand forms (30_encoding.md R74, R75; 43_index_memory.md) and the parameters of 00_scope.md R7 that say
which operand an instruction uses.
-/

namespace Sys2Proof.Machine

/-- `KEY_INDEX_MASK`: the low 4 bits of a register select a key or a glyph (41_skips.md R114, 43_index_memory.md R142;
D14, log 22). -/
def lowNibble (b : Byte) : Nibble := b.extractLsb' 0 4

/-- `SHIFT_SOURCE`: the register the shifts read, `V[X]`, in place (42_alu.md R128, R130; D10, log 19). -/
def shiftSource (x _y : Nibble) : Nibble := x

/-- `JUMP_V0`: the register `JP V0, addr` adds (40_flow.md R104; D25, log 24). -/
def jumpReg (_nnn : Addr12) : Nibble := 0x0#4

/-- The first byte of the low-resolution glyph of a digit (43_index_memory.md R142). -/
def glyphAddr (d : Nibble) : Nat := Config.fontLoBase + Config.fontLoGlyphBytes * d.toNat

/-- `I_ADVANCE`: how far the block moves of `V[0..X]` advance `I` (43_index_memory.md R144, R145; D22). -/
def blockLength (x : Nibble) : Nat := x.toNat + 1

/-- The decimal digits of a byte, hundreds, tens, units, each as a whole byte (43_index_memory.md R143). -/
def bcdHundreds (a : Byte) : Byte := BitVec.ofNat 8 (a.toNat / 100)
def bcdTens (a : Byte) : Byte := BitVec.ofNat 8 (a.toNat / 10 % 10)
def bcdUnits (a : Byte) : Byte := BitVec.ofNat 8 (a.toNat % 10)

/-- `DRAW_EDGE_POLICY`: each pixel wraps on its own, columns modulo 64 and rows modulo 32 (44_display.md R152; D12,
log 21). -/
def wrapColumn (n : Nat) : Fin 64 := ⟨n % 64, Nat.mod_lt n (by decide)⟩
def wrapRow (n : Nat) : Fin 32 := ⟨n % 32, Nat.mod_lt n (by decide)⟩

/-- The 16 keys (10_state.md R43). -/
def allKeys : List Nibble := (List.range 16).map (BitVec.ofNat 4)

/-- The keys pressed at the start of the cycle, the set `P` of 45_timers_keys.md R161, lowest first. -/
def State.pressedKeys (s : State) : List Nibble := allKeys.filter s.keyDown

/-- `KEY_SELECT(P)` for the `n`-th time: the one key when there is one, a free choice among them when there are several,
none when there is none (45_timers_keys.md R161; D15, U8, log 5). -/
def keySelect (n : Nat) : List Nibble → Option Nibble
  | [] => none
  | [k] => some k
  | k :: ks => some ((k :: ks).getD (Config.keyChoice n % (k :: ks).length) k)

end Sys2Proof.Machine
end

