-- ==== Sys2Proof/Machine/Flags.lean ====
section
/-!
DEFINITION. The arithmetic laws (42_alu.md R132) and the flag register: results are computed exactly on naturals and
narrowed, flags are comparisons on the exact values, and a flag write replaces the whole of `VF` with 0 or 1
(10_state.md R27 to R29).
-/

namespace Sys2Proof.Machine

/-- `(a + b) mod 256` (42_alu.md R132). -/
def addByte (a b : Byte) : Byte := BitVec.ofNat 8 (a.toNat + b.toNat)

/-- Unsigned overflow of the sum (42_alu.md R132). -/
def carryOf (a b : Byte) : Bool := decide (a.toNat + b.toNat > 255)

/-- `(a - b + 256) mod 256` (42_alu.md R132). -/
def subByte (a b : Byte) : Byte := BitVec.ofNat 8 (a.toNat + 256 - b.toNat)

/-- No borrow: true when `a >= b` (42_alu.md R132). -/
def noBorrowOf (a b : Byte) : Bool := decide (b.toNat ≤ a.toNat)

/-- `a >> 1`, bit 7 becomes 0, and the bit shifted out (42_alu.md R128, R132). -/
def shrByte (a : Byte) : Byte := BitVec.ofNat 8 (a.toNat / 2)
def shrOut (a : Byte) : Bool := a.getLsbD 0

/-- `(a << 1) mod 256`, bit 0 becomes 0, and the bit shifted out (42_alu.md R130, R132). -/
def shlByte (a : Byte) : Byte := BitVec.ofNat 8 (a.toNat * 2)
def shlOut (a : Byte) : Bool := a.getLsbD 7

/-- A flag as `VF` holds it: exactly `0x00` or `0x01` (10_state.md R28). -/
def flagByte (f : Bool) : Byte := if f then 0x01#8 else 0x00#8

/-- A flag write: the whole of `VF` is replaced (10_state.md R28). -/
def State.setFlag (s : State) (f : Bool) : State := s.setV regVF (flagByte f)

/-- `VF_ORDER`: the result first, the flag last, so that with `X = 15` the flag stays (10_state.md R29; D9, log 18).
The caller has read the operands before. -/
def State.setResultFlag (s : State) (x : Nibble) (result : Byte) (f : Bool) : State := (s.setV x result).setFlag f

/-- `LOGIC_VF`: the flag that `OR`, `AND`, `XOR` write to `VF`; none, they do not write it (10_state.md R27; D11, log 20). -/
def logicVf : Option Bool := none

/-- The result of a logic operation: `V[x]`, and the flag when `LOGIC_VF` gives one (42_alu.md R123 to R125). -/
def State.setLogic (s : State) (x : Nibble) (result : Byte) : State :=
  match logicVf with
  | none => s.setV x result
  | some f => s.setResultFlag x result f

end Sys2Proof.Machine
end

