-- ==== Sys2Proof/Machine/Alu.lean ====
section
/-!
DEFINITION. Register loads, arithmetic, logic, shifts and random (42_alu.md). Each writes `V[X]`, `VF` where its rule says
so, and takes the generic advance; the operands are read from the state before any write (10_state.md R29).
-/

namespace Sys2Proof.Machine

/-- `LD Vx, byte` (42_alu.md R120). -/
def execLdImm (x : Nibble) (kk : Byte) (s : State) : Host.Outcome State Fault Refusal :=
  .next (s.setV x kk).advance

/-- `ADD Vx, byte`: no flag (42_alu.md R121; D11, log 20). -/
def execAddImm (x : Nibble) (kk : Byte) (s : State) : Host.Outcome State Fault Refusal :=
  .next (s.setV x (addByte (s.getV x) kk)).advance

/-- `LD Vx, Vy` (42_alu.md R122). -/
def execLdReg (x y : Nibble) (s : State) : Host.Outcome State Fault Refusal :=
  .next (s.setV x (s.getV y)).advance

/-- `OR Vx, Vy`: `LOGIC_VF`, no flag (42_alu.md R123; D11, log 20). -/
def execOrReg (x y : Nibble) (s : State) : Host.Outcome State Fault Refusal :=
  .next (s.setLogic x (s.getV x ||| s.getV y)).advance

/-- `AND Vx, Vy`: no flag (42_alu.md R124; D11, log 20). -/
def execAndReg (x y : Nibble) (s : State) : Host.Outcome State Fault Refusal :=
  .next (s.setLogic x (s.getV x &&& s.getV y)).advance

/-- `XOR Vx, Vy`: no flag (42_alu.md R125; D11, log 20). -/
def execXorReg (x y : Nibble) (s : State) : Host.Outcome State Fault Refusal :=
  .next (s.setLogic x (s.getV x ^^^ s.getV y)).advance

/-- `ADD Vx, Vy`: `VF` is the carry (42_alu.md R126). -/
def execAddReg (x y : Nibble) (s : State) : Host.Outcome State Fault Refusal :=
  let a := s.getV x
  let b := s.getV y
  .next (s.setResultFlag x (addByte a b) (carryOf a b)).advance

/-- `SUB Vx, Vy`: `VF` is not borrow (42_alu.md R127). -/
def execSub (x y : Nibble) (s : State) : Host.Outcome State Fault Refusal :=
  let a := s.getV x
  let b := s.getV y
  .next (s.setResultFlag x (subByte a b) (noBorrowOf a b)).advance

/-- `SHR Vx`: `VF` is the bit shifted out (42_alu.md R128). -/
def execShr (x y : Nibble) (s : State) : Host.Outcome State Fault Refusal :=
  let a := s.getV (shiftSource x y)
  .next (s.setResultFlag x (shrByte a) (shrOut a)).advance

/-- `SUBN Vx, Vy`: the reverse subtract, into `V[X]` (42_alu.md R129). -/
def execSubn (x y : Nibble) (s : State) : Host.Outcome State Fault Refusal :=
  let a := s.getV x
  let b := s.getV y
  .next (s.setResultFlag x (subByte b a) (noBorrowOf b a)).advance

/-- `SHL Vx`: `VF` is the bit shifted out (42_alu.md R130). -/
def execShl (x y : Nibble) (s : State) : Host.Outcome State Fault Refusal :=
  let a := s.getV (shiftSource x y)
  .next (s.setResultFlag x (shlByte a) (shlOut a)).advance

/-- `RND Vx, byte`: exactly one byte is drawn per execution (42_alu.md R131; log 4). -/
def execRnd (x : Nibble) (kk : Byte) (s : State) : Host.Outcome State Fault Refusal :=
  let r := s.drawByte
  .next (r.2.setV x (r.1 &&& kk)).advance

end Sys2Proof.Machine
end

