-- ==== Sys2Proof/Machine/Display.lean ====
section
/-!
DEFINITION. The display instructions (44_display.md), the only ones that change the display and set the dirty flag.
-/

namespace Sys2Proof.Machine

/-- `CLS` (44_display.md R150). -/
def execCls (s : State) : Host.Outcome State Fault Refusal :=
  .next { s with disp := blankDisplay, drawn := true }.advance

/-- One set bit of a sprite at a cell: a set pixel about to be turned off is a collision, then the cell flips
(44_display.md R151). The pair is the display and the collision so far. -/
def drawPixel (px : Fin 64) (py : Fin 32) (acc : Display × Bool) : Display × Bool :=
  (setCell acc.1 px py (!cell acc.1 px py), acc.2 || cell acc.1 px py)

/-- The first `n` columns of one sprite row, bit 7 the leftmost (44_display.md R151, R153). -/
def drawColumns (x0 : Nat) (py : Fin 32) (b : Byte) : Nat → Display × Bool → Display × Bool
  | 0, acc => acc
  | col + 1, acc =>
    let done := drawColumns x0 py b col acc
    if b.getLsbD (7 - col) then drawPixel (wrapColumn (x0 + col)) py done else done

/-- The first `n` rows of a sprite whose bytes start at `I`, at column `x0` and row `y0` (44_display.md R151). -/
def drawRows (s : State) (x0 y0 : Nat) : Nat → Display × Bool → Display × Bool
  | 0, acc => acc
  | r + 1, acc =>
    drawColumns x0 (wrapRow (y0 + r)) (s.readByte (s.i.toNat + r)) 8 (drawRows s x0 y0 r acc)

/-- `DRW Vx, Vy, n`: the coordinates are read first, `VF` is written last (44_display.md R151 to R155). -/
def execDrw (x y n : Nibble) (s : State) : Host.Outcome State Fault Refusal :=
  let drawing := drawRows s (s.getV x).toNat (s.getV y).toNat n.toNat (s.disp, false)
  .next ({ s with disp := drawing.1, drawn := true }.setFlag drawing.2).advance

end Sys2Proof.Machine
end

