-- ==== Sys2Proof/Machine/Flow.lean ====
section
/-!
DEFINITION. Control transfer: `SYS`, `RET`, `JP`, `CALL`, `JP V0` (40_flow.md). A fault's word is the instruction's own
encoding, which is the word it was fetched from (log 25).
-/

namespace Sys2Proof.Machine

/-- `SYS addr` is not implemented and raises `UnknownOpcode` (40_flow.md R100; D2, log 13). -/
def execSys (nnn : Addr12) (s : State) : Host.Outcome State Fault Refusal :=
  .next (s.raise .unknownOpcode (encode (.sys nnn)))

/-- `RET`: `StackUnderflow` when no entry is in use, else `pc` is the popped entry, no advance (40_flow.md R101). -/
def execRet (s : State) : Host.Outcome State Fault Refusal :=
  match s.pop with
  | none => .next (s.stackPolicy .stackUnderflow (encode .ret))
  | some (target, t) => .next (t.setPc target.toNat)

/-- `JP addr` (40_flow.md R102). -/
def execJp (nnn : Addr12) (s : State) : Host.Outcome State Fault Refusal := .next (s.setPc nnn.toNat)

/-- `CALL addr`: `StackOverflow` when all 16 entries are in use, else the address after the call is pushed
(40_flow.md R103). -/
def execCall (nnn : Addr12) (s : State) : Host.Outcome State Fault Refusal :=
  match s.push (s.pc.toNat + 2) with
  | none => .next (s.stackPolicy .stackOverflow (encode (.call nnn)))
  | some t => .next (t.setPc nnn.toNat)

/-- `JP V0, addr` (40_flow.md R104). -/
def execJpV0 (nnn : Addr12) (s : State) : Host.Outcome State Fault Refusal :=
  .next (s.setPc (nnn.toNat + (s.getV (jumpReg nnn)).toNat))

end Sys2Proof.Machine
end

