-- ==== Sys2Proof/Machine/IndexMemory.lean ====
section
/-!
DEFINITION. The index register and the moves between registers and memory (43_index_memory.md). None can fault
(20_memory.md R51); each byte's address is reduced on its own (20_memory.md R56).
-/

namespace Sys2Proof.Machine

/-- `LD I, addr` (43_index_memory.md R140). -/
def execLdI (nnn : Addr12) (s : State) : Host.Outcome State Fault Refusal := .next (s.setI nnn.toNat).advance

/-- `ADD I, Vx`: no flag (43_index_memory.md R141; D11, log 20). -/
def execAddI (x : Nibble) (s : State) : Host.Outcome State Fault Refusal :=
  .next (s.setI (s.i.toNat + (s.getV x).toNat)).advance

/-- `LD F, Vx`: the address of a low-resolution glyph; no memory is read (43_index_memory.md R142). -/
def execLdF (x : Nibble) (s : State) : Host.Outcome State Fault Refusal :=
  .next (s.setI (glyphAddr (lowNibble (s.getV x)))).advance

/-- `LD B, Vx`: hundreds, tens, units at `I`, `I + 1`, `I + 2` (43_index_memory.md R143). -/
def execLdB (x : Nibble) (s : State) : Host.Outcome State Fault Refusal :=
  let a := s.getV x
  let p := s.i.toNat
  .next (((s.writeByte p (bcdHundreds a)).writeByte (p + 1) (bcdTens a)).writeByte (p + 2) (bcdUnits a)).advance

/-- `LD [I], Vx`: `V[0..X]` stored, then `I` moves past them (43_index_memory.md R144). -/
def execDump (x : Nibble) (s : State) : Host.Outcome State Fault Refusal :=
  .next ((State.storeRegs (blockLength x) s).setI (s.i.toNat + blockLength x)).advance

/-- `LD Vx, [I]`: `V[0..X]` loaded, then `I` moves past them (43_index_memory.md R145). -/
def execLoad (x : Nibble) (s : State) : Host.Outcome State Fault Refusal :=
  .next ((State.loadRegs (blockLength x) s).setI (s.i.toNat + blockLength x)).advance

end Sys2Proof.Machine
end

