-- ==== Sys2Proof/Machine/TimersKeys.lean ====
section
/-!
DEFINITION. The timer instructions and the key-wait (45_timers_keys.md). The tick of the same cycle comes after them, in
`step` (00_scope.md R13).
-/

namespace Sys2Proof.Machine

/-- `LD Vx, DT`: the timer before this cycle's tick (45_timers_keys.md R160). -/
def execLdVxDT (x : Nibble) (s : State) : Host.Outcome State Fault Refusal := .next (s.setV x s.dt).advance

/-- `LD Vx, K`: with no key pressed nothing changes and `pc` holds; else a pressed key is recorded
(45_timers_keys.md R161; log 5). -/
def execLdVxK (x : Nibble) (s : State) : Host.Outcome State Fault Refusal :=
  match keySelect s.picks s.pressedKeys with
  | none => .next s
  | some k => .next ({ s with picks := s.picks + 1 }.setV x (BitVec.ofNat 8 k.toNat)).advance

/-- `LD DT, Vx` (45_timers_keys.md R162). -/
def execLdDTVx (x : Nibble) (s : State) : Host.Outcome State Fault Refusal :=
  .next { s with dt := s.getV x }.advance

/-- `LD ST, Vx` (45_timers_keys.md R163). -/
def execLdSTVx (x : Nibble) (s : State) : Host.Outcome State Fault Refusal :=
  .next { s with st := s.getV x }.advance

end Sys2Proof.Machine
end

