-- ==== Sys2Proof/Machine/Cycle.lean ====
section
/-!
DEFINITION. One cycle (00_scope.md R13): the trigger is cleared, one step fetches, decodes and executes one instruction or
raises one fault, and the timer unit ticks. A halted machine does nothing (60_exceptions.md R176).
-/

namespace Sys2Proof.Machine

/-- The selected row's meaning, or, when no row matches, the undefined-opcode arm (30_encoding.md R71, R79). -/
def runWord (w : Word16) (s : State) : Host.Outcome State Fault Refusal :=
  match decodeWord w with
  | .ok i => exec i s
  | .error _ => .next (s.raise .unknownOpcode w)

/-- The tick that ends every cycle, whatever the step did (60_exceptions.md R184). -/
def thenTick : Host.Outcome State Fault Refusal → Host.Outcome State Fault Refusal
  | .next t => .next t.tick
  | .fault r => .fault r
  | .refused r => .refused r

/-- A cycle request (00_scope.md R13). In the halted state there is no fetch, no instruction and no tick, and the trigger,
which belongs to one cycle, is 0 (60_exceptions.md R176; DEDUCED, log 8). -/
def cycle (s : State) : Host.Outcome State Fault Refusal :=
  if s.alive then thenTick (runWord s.fetchWord s.clearTrigger) else .next s.clearTrigger

end Sys2Proof.Machine
end

