-- ==== Sys2Proof/Machine/Step.lean ====
section
/-!
DEFINITION. One step of the model: the host's turn, then the cycle it requests (00_scope.md R12, R13); and how the host of
this package places an instruction where the next step fetches it.
-/

namespace Sys2Proof.Machine

/-- One step is what the host does between cycles and then one cycle (log 10). -/
def step (s : State) : Host.Outcome State Fault Refusal := cycle s.hostTurn

/-- `s` with an instruction's bytes at `pc` and the run alive, which a fetch needs (log 1). -/
def State.withFetchWord (s : State) (nbits w : Nat) : State :=
  State.loadBytes (tableBytes nbits w) s.pc.toNat { s with alive := true }

end Sys2Proof.Machine
end

