-- ==== Sys2Proof/Safety.lean ====
section
/-!
DEFINITION. The terms claims are stated in: the invariant of the machine, what a state change keeps, when a timer is left
alone, and the closed form of what a sprite covers.
-/

namespace Sys2Proof.Machine

/-! ### The invariant -/

/-- What every reachable state meets and every step keeps. -/
structure Inv (s : State) : Prop where
  /-- Memory is in its canonical form (log 27). -/
  memory : Memory.wf s.fonts s.mem
  /-- Bits 15:12 of the containers are 0 (10_state.md R23, R34). -/
  pcRange : s.pc.toNat < 4096
  iRange : s.i.toNat < 4096
  /-- Every stack entry holds a 12-bit address zero-extended (10_state.md R36). -/
  stackRange : ∀ k : Fin 16, s.stack[k].toNat < 4096
  /-- The fault report is there exactly when the run has halted (10_state.md R38, R39). -/
  diagHalted : s.alive = s.diag.isNone
  /-- `diag.pc` equals `pc` in the halted state (60_exceptions.md R175). -/
  diagPc : ∀ d, s.diag = some d → d.pc = s.pc
  /-- The trigger ends a countdown: the sound timer is then 0 (60_exceptions.md R186). -/
  triggerEnds : s.trigger = true → s.st = 0x00#8

/-! ### What stays as it was -/

/-- Every general register. -/
def KeepsV (s t : State) : Prop := ∀ k, t.getV k = s.getV k

/-- The call stack: the pointer and every entry. -/
def KeepsStack (s t : State) : Prop := t.sp = s.sp ∧ t.stack = s.stack

/-- Both timers. -/
def KeepsTimers (s t : State) : Prop := t.dt = s.dt ∧ t.st = s.st

/-- Every byte of memory. -/
def KeepsMemory (s t : State) : Prop := ∀ a, t.readByte a = s.readByte a

/-- The display and the dirty flag. -/
def KeepsDisplay (s t : State) : Prop := t.disp = s.disp ∧ t.drawn = s.drawn

/-- The run's status: alive, the fault report, the trigger. -/
def KeepsStatus (s t : State) : Prop := t.alive = s.alive ∧ t.diag = s.diag ∧ t.trigger = s.trigger

/-- What only the host or the initialisation sets: the keys, the agenda, the fonts. -/
def KeepsHost (s t : State) : Prop := t.key = s.key ∧ t.agenda = s.agenda ∧ t.fonts = s.fonts

/-- The counters of the free values. -/
def KeepsFree (s t : State) : Prop := t.draws = s.draws ∧ t.picks = s.picks

/-- Everything but the general registers, `I`, `pc` and the stack. -/
def KeepsMachine (s t : State) : Prop :=
  KeepsTimers s t ∧ KeepsMemory s t ∧ KeepsDisplay s t ∧ KeepsStatus s t ∧ KeepsHost s t ∧ KeepsFree s t

/-- Everything but the general registers and `pc`. -/
def KeepsBeyondV (s t : State) : Prop := t.i = s.i ∧ KeepsStack s t ∧ KeepsMachine s t

/-- Everything but `pc`. -/
def KeepsBeyondPc (s t : State) : Prop := KeepsV s t ∧ KeepsBeyondV s t

/-- The generic advance (10_state.md R25). -/
def Advances (s t : State) : Prop := t.pc.toNat = (s.pc.toNat + 2) % 4096

/-- A conditional skip of the next instruction, nothing else (10_state.md R25; 41_skips.md). -/
def SkipsWhen (c : Prop) (s t : State) : Prop :=
  (c → t.pc.toNat = (s.pc.toNat + 4) % 4096) ∧ (¬ c → t.pc.toNat = (s.pc.toNat + 2) % 4096) ∧ KeepsBeyondPc s t

/-- Fault entry and nothing else: `alive` is 0, `diag` is the triple, `pc` and the rest are as they were
(60_exceptions.md R174). -/
def FaultsWith (c : Cause) (w : Word16) (s t : State) : Prop :=
  t.alive = false ∧ t.diag = some { cause := c, word := w, pc := s.pc } ∧ t.trigger = s.trigger ∧ t.pc = s.pc ∧
  KeepsV s t ∧ t.i = s.i ∧ KeepsStack s t ∧ KeepsTimers s t ∧ KeepsMemory s t ∧ KeepsDisplay s t ∧ KeepsHost s t ∧
  KeepsFree s t

/-! ### Instructions by what they may write -/

/-- The six instructions that write `VF` as a flag (10_state.md R27). -/
def WritesFlag : Instr → Bool
  | .addReg _ _ | .sub _ _ | .shr _ _ | .subn _ _ | .shl _ _ | .drw _ _ _ => true
  | .sys _ | .cls | .ret | .jp _ | .call _ | .seImm _ _ | .sneImm _ _ | .seReg _ _ _ | .ldImm _ _ | .addImm _ _ => false
  | .ldReg _ _ | .orReg _ _ | .andReg _ _ | .xorReg _ _ | .sneReg _ _ _ | .ldI _ | .jpV0 _ | .rnd _ _ => false
  | .skp _ | .sknp _ | .ldVxDT _ | .ldVxK _ | .ldDTVx _ | .ldSTVx _ | .addI _ | .ldF _ | .ldB _ | .dump _ | .load _ => false

/-- The register an instruction names in its `X` field and may write as data (10_state.md R21, R27). -/
def destination : Instr → Option Nibble
  | .ldImm x _ | .addImm x _ | .ldReg x _ | .orReg x _ | .andReg x _ | .xorReg x _ => some x
  | .addReg x _ | .sub x _ | .shr x _ | .subn x _ | .shl x _ | .rnd x _ | .ldVxDT x | .ldVxK x | .load x => some x
  | .sys _ | .cls | .ret | .jp _ | .call _ | .seImm _ _ | .sneImm _ _ | .seReg _ _ _ | .sneReg _ _ _ => none
  | .ldI _ | .jpV0 _ | .drw _ _ _ | .skp _ | .sknp _ | .ldDTVx _ | .ldSTVx _ | .addI _ | .ldF _ | .ldB _ | .dump _ => none

/-- How many bytes from `I` on an instruction stores (20_memory.md R57). -/
def storedBytes : Instr → Nat
  | .ldB _ => 3
  | .dump x => x.toNat + 1
  | .sys _ | .cls | .ret | .jp _ | .call _ | .seImm _ _ | .sneImm _ _ | .seReg _ _ _ | .ldImm _ _ | .addImm _ _ => 0
  | .ldReg _ _ | .orReg _ _ | .andReg _ _ | .xorReg _ _ | .addReg _ _ | .sub _ _ | .shr _ _ | .subn _ _ | .shl _ _ => 0
  | .sneReg _ _ _ | .ldI _ | .jpV0 _ | .rnd _ _ | .drw _ _ _ | .skp _ | .sknp _ => 0
  | .ldVxDT _ | .ldVxK _ | .ldDTVx _ | .ldSTVx _ | .addI _ | .ldF _ | .load _ => 0

/-! ### Cycles -/

/-- The instruction the next cycle fetches, if its word is one (30_encoding.md R71). -/
def State.nextInstr (s : State) : Option Instr :=
  match decodeWord s.fetchWord with
  | .ok i => some i
  | .error _ => none

/-- In each of the next `n` cycles the machine runs and does not execute `LD DT, Vx` (60_exceptions.md R185). -/
def LeavesDT : Nat → State → Prop
  | 0, _ => True
  | n + 1, s => s.alive = true ∧ (∀ x, s.nextInstr ≠ some (.ldDTVx x)) ∧ ∀ t, step s = .next t → LeavesDT n t

/-- In each of the next `n` cycles the machine runs and does not execute `LD ST, Vx` (60_exceptions.md R185). -/
def LeavesST : Nat → State → Prop
  | 0, _ => True
  | n + 1, s => s.alive = true ∧ (∀ x, s.nextInstr ≠ some (.ldSTVx x)) ∧ ∀ t, step s = .next t → LeavesST n t

/-! ### Sprites -/

/-- Whether the sprite of `n` rows at `I`, drawn at column `x0` and row `y0`, has its bit over cell `(x, y)` set: the row
and column of the sprite over that cell are the wrapped distances from the origin (44_display.md R151 to R153). -/
def spriteCovers (s : State) (x0 y0 n : Nat) (x : Fin 64) (y : Fin 32) : Bool :=
  let r := (y.val + 32 - y0 % 32) % 32
  let col := (x.val + 64 - x0 % 64) % 64
  decide (r < n) && decide (col < 8) && (s.readByte (s.i.toNat + r)).getLsbD (7 - col)

end Sys2Proof.Machine
end

