-- ==== Sys2Proof/Certificates/Slice0/Obligations.lean ====
section
/-!
DEFINITION. The statements for the provers, from the numbered rules of spec/. Statements of an instruction's result have as
their conclusion that `exec` answers a next state and what that state holds, its frame included.
-/

open Sys2Proof Sys2Proof.Machine

/-! ### Encoding -/

/-- Every well-formed instruction's word decodes to it: no bit of an encoding is dropped (30_encoding.md R76, R85; the
patterns are D1, log 12). -/
def Obligations.DecodeOfEncode : Prop :=
  ∀ i : Instr, WellFormed i = true → decodeWord (encode i) = .ok i

/-- A word that decodes is the encoding of what it decodes to, and that is well formed (30_encoding.md R71, R76;
the patterns are D1, log 12). -/
def Obligations.EncodeOfDecode : Prop :=
  ∀ (w : Word16) (i : Instr), decodeWord w = .ok i → encode i = w ∧ WellFormed i = true

/-- The byte decoder reads an instruction's two bytes and leaves the rest, whatever follows (30_encoding.md R72, R85; the patterns
are D1, log 12). -/
def Obligations.DecodeReadsTwoBytes : Prop :=
  ∀ (i : Instr) (rest : List Byte), WellFormed i = true → decode (encodeBytes i ++ rest) = .ok (i, rest)

/-- The undefined words are exactly the three groups of 30_encoding.md R79; the exact-match reading is D3, log 14, and
the patterns are D1, log 12. -/
def Obligations.UndefinedWordsExactly : Prop :=
  ∀ w : Word16, (∃ e, decodeWord w = .error e) ↔
    (w.toNat / 4096 = 0x8 ∧ w.toNat % 16 ∈ [0x8, 0x9, 0xA, 0xB, 0xC, 0xD, 0xF]) ∨
    (w.toNat / 4096 = 0xE ∧ w.toNat % 256 ∉ [0x9E, 0xA1]) ∨
    (w.toNat / 4096 = 0xF ∧ w.toNat % 256 ∉ [0x07, 0x0A, 0x15, 0x18, 0x1E, 0x29, 0x33, 0x55, 0x65])

/-- A word decodes to an instruction of a row exactly when `(w & mask) = match` for that row, `SYS` besides only when the
word is neither `0x00E0` nor `0x00EE` (30_encoding.md R76; the patterns are D1, log 12). -/
def Obligations.RowsSelectByMask : Prop :=
  ∀ (w : Word16) (i : Instr),
    (∃ j, decodeWord w = .ok j ∧ rowMaskMatch j = rowMaskMatch i) ↔
    (w &&& (rowMaskMatch i).1 = (rowMaskMatch i).2 ∧
      (rowMaskMatch i = (0xF000#16, 0x0000#16) → w ≠ 0x00E0#16 ∧ w ≠ 0x00EE#16))

/-- Words written out from the table of 30_encoding.md R76, R85 decode to what they stand for (the patterns are D1,
log 12). -/
def Obligations.SampleWordsDecode : Prop :=
  decodeWord 0x1250#16 = .ok (.jp 0x250#12) ∧ decodeWord 0x637F#16 = .ok (.ldImm 0x3#4 0x7F#8) ∧
  decodeWord 0x8124#16 = .ok (.addReg 0x1#4 0x2#4) ∧ decodeWord 0xDAB5#16 = .ok (.drw 0xA#4 0xB#4 0x5#4) ∧
  decodeWord 0xFE65#16 = .ok (.load 0xE#4) ∧ decodeWord 0x00E0#16 = .ok .cls ∧
  decodeWord 0x00E1#16 = .ok (.sys 0x0E1#12) ∧ decodeWord 0x5121#16 = .ok (.seReg 0x1#4 0x2#4 0x1#4) ∧
  decodeWord 0x8128#16 = .error (.family8 0x8128#16) ∧ decodeWord 0xE19F#16 = .error (.familyE 0xE19F#16) ∧
  decodeWord 0xF130#16 = .error (.familyF 0xF130#16)

/-! ### Memory, fetch, reset, loader -/

/-- Every access masks its address to 12 bits; a write sets the byte at its address and no other (20_memory.md R50). -/
def Obligations.AccessMasksAddress : Prop :=
  ∀ (s : State) (a b : Nat) (v : Byte),
    s.readByte a = s.readByte (a % 4096) ∧
    (s.writeByte a v).readByte b = if b % 4096 = a % 4096 then v else s.readByte b

/-- The fetched word is the two bytes at `pc`, high byte first (20_memory.md R52). -/
def Obligations.FetchIsBigEndian : Prop :=
  ∀ s : State, s.fetchWord.toNat =
    (s.readByte (s.pc.toNat % 4096)).toNat * 256 + (s.readByte ((s.pc.toNat + 1) % 4096)).toNat

/-- After reset every general register, `VF` among them, reads 0 (10_state.md R22, R30). -/
def Obligations.ResetRegistersZero : Prop :=
  (∀ x, State.reset.getV x = 0x00#8) ∧ State.reset.getV regVF = 0x00#8

/-- The other reset values of 70_reset_and_hazards.md R200; display, keys, dirty flag and the zero fill of memory are D17
(log 6), alive, diag and trigger are derived there (log 7), and memory holds the fonts as installed (20_memory.md R60).
Reset applied again to any machine puts every one of them, and the registers, back to these values; only the model's own
fonts, counters and agenda stay (R201; log 11). -/
def Obligations.ResetValues : Prop :=
  State.reset.i = 0x000#16 ∧ State.reset.pc = 0x200#16 ∧ State.reset.sp = 0 ∧
  (∀ k : Fin 16, State.reset.stack[k] = 0x0000#16) ∧ State.reset.dt = 0x00#8 ∧ State.reset.st = 0x00#8 ∧
  (∀ x y, cell State.reset.disp x y = false) ∧ (∀ k, State.reset.keyDown k = false) ∧ State.reset.drawn = false ∧
  State.reset.alive = true ∧ State.reset.diag = none ∧ State.reset.trigger = false ∧
  (∀ a : Fin 80, State.reset.readByte a = State.reset.fonts.lo[a]) ∧
  (∀ a : Fin 160, State.reset.readByte (0x050 + a) = State.reset.fonts.hi[a]) ∧
  (∀ a : Nat, 0x0F0 ≤ a → a < 4096 → State.reset.readByte a = 0x00#8) ∧
  ∀ s : State,
    KeepsV State.reset s.reinitialise ∧ s.reinitialise.i = State.reset.i ∧ s.reinitialise.pc = State.reset.pc ∧
    KeepsStack State.reset s.reinitialise ∧ KeepsTimers State.reset s.reinitialise ∧
    KeepsDisplay State.reset s.reinitialise ∧ s.reinitialise.key = State.reset.key ∧
    s.reinitialise.alive = true ∧ s.reinitialise.diag = none ∧ s.reinitialise.trigger = false ∧
    (∀ a : Fin 80, s.reinitialise.readByte a = s.fonts.lo[a]) ∧
    (∀ a : Fin 160, s.reinitialise.readByte (0x050 + a) = s.fonts.hi[a]) ∧
    (∀ a : Nat, 0x0F0 ≤ a → a < 4096 → s.reinitialise.readByte a = 0x00#8) ∧
    s.reinitialise.fonts = s.fonts ∧ s.reinitialise.agenda = s.agenda ∧ KeepsFree s s.reinitialise

/-- The loader copies bytes to ascending addresses with wraparound, in order, and writes memory only
(70_reset_and_hazards.md R203); its default offset is 512. -/
def Obligations.LoaderCopiesBytes : Prop :=
  Config.loadOffset = 512 ∧
  ∀ (s : State) (bytes : List Byte) (b : Byte) (offset a : Nat),
    (State.loadBytes [] offset s).readByte a = s.readByte a ∧
    (State.loadBytes (bytes ++ [b]) offset s).readByte a =
      (if a % 4096 = (offset + bytes.length) % 4096 then b else (State.loadBytes bytes offset s).readByte a) ∧
    State.loadBytes bytes offset s = { s with mem := (State.loadBytes bytes offset s).mem }

/-- After loading, an address holds the byte of the largest index that reaches it (70_reset_and_hazards.md R205, derived
there from R203). -/
def Obligations.LoaderLastByteWins : Prop :=
  ∀ (s : State) (bytes : List Byte) (offset k : Nat) (h : k < bytes.length),
    (∀ j, k < j → j < bytes.length → (offset + j) % 4096 ≠ (offset + k) % 4096) →
    (State.loadBytes bytes offset s).readByte (offset + k) = bytes[k]

/-- The boot order: reset, which places the fonts, then the loader at the default offset 512, then the host's agenda; so a
byte of the program that no later byte overwrites stands at its wrapped address, a font byte's among them, and the first
cycle fetches at 0x200 (70_reset_and_hazards.md R203, R204, R206; the order is D24, log 11, the agenda the model's own,
log 10). -/
def Obligations.BootLoadsAfterReset : Prop :=
  ∀ (program : List Byte) (agenda : List (List HostEvent)),
    boot program agenda = { State.loadBytes program 512 State.reset with agenda := agenda } ∧
    (boot program agenda).pc = 0x200#16 ∧
    ∀ (k : Nat) (h : k < program.length),
      (∀ j, k < j → j < program.length → (512 + j) % 4096 ≠ (512 + k) % 4096) →
      (boot program agenda).readByte (512 + k) = program[k]

/-! ### The cycle -/

/-- A step is the host's turn and then, when the run is alive and the bytes at `pc` decode to an instruction, that
instruction run on the state with the trigger cleared, and the tick (00_scope.md R12, R13; the agenda is the model's own,
log 10). -/
def Obligations.StepRunsDecoded : Prop :=
  ∀ (s : State) (i : Instr), s.alive = true →
    decode [s.hostTurn.readByte s.hostTurn.pc.toNat, s.hostTurn.readByte (s.hostTurn.pc.toNat + 1)] = .ok (i, []) →
    step s = thenTick (exec i s.hostTurn.clearTrigger)

/-- What the host does: pressing key `k` makes it read pressed, releasing it makes it read released, every other key stays;
clearing the dirty flag makes it 0, and the other actions leave it; the actions before a cycle happen in order; and the
host's turn changes the keys, the dirty flag and the agenda and nothing else, so not what is fetched (60_exceptions.md R187,
R188, R192, R195; 10_state.md R40, R43; 00_scope.md R12; the agenda is the model's own, log 10). -/
def Obligations.HostTurnFrame : Prop :=
  (∀ (s : State) (k j : Nibble),
    (s.hostEvent (.pressKey k)).keyDown j = (if j = k then true else s.keyDown j) ∧
    (s.hostEvent (.releaseKey k)).keyDown j = (if j = k then false else s.keyDown j) ∧
    (s.hostEvent .clearDrawn).keyDown j = s.keyDown j ∧
    (s.hostEvent (.pressKey k)).drawn = s.drawn ∧ (s.hostEvent (.releaseKey k)).drawn = s.drawn ∧
    (s.hostEvent .clearDrawn).drawn = false) ∧
  (∀ s : State, s.agenda = [] → s.hostTurn = s) ∧
  (∀ (s : State) (rest : List (List HostEvent)), s.agenda = [] :: rest → s.hostTurn = { s with agenda := rest }) ∧
  (∀ (s : State) (e : HostEvent) (events : List HostEvent) (rest : List (List HostEvent)),
    s.agenda = (e :: events) :: rest → s.hostTurn = { s.hostEvent e with agenda := events :: rest }.hostTurn) ∧
  (∀ s : State, s.hostTurn = { s with key := s.hostTurn.key, drawn := s.hostTurn.drawn, agenda := s.agenda.tail } ∧
    (s.hostTurn.drawn = true → s.drawn = true))

/-- Every cycle request completes and returns: no step faults or refuses (70_reset_and_hazards.md R222, 20_memory.md R51;
that the hardware's faults are next states is log 9). -/
def Obligations.StepAlwaysCompletes : Prop := ∀ s : State, ∃ t, step s = .next t

/-- After the step of every cycle with `alive = 1` at its start, whatever the step did, both timers decrement if positive,
and the trigger is 1 exactly when the sound timer was 1 before its decrement (60_exceptions.md R184, R186; the tick of a
faulting cycle is D7, log 17, the moment of the trigger D19, log 28, the host's turn the model's own, log 10). -/
def Obligations.TickAfterEveryStep : Prop :=
  ∀ s : State, s.alive = true → ∃ u t, runWord s.hostTurn.fetchWord s.hostTurn.clearTrigger = .next u ∧ step s = .next t ∧
    t.dt.toNat = u.dt.toNat - 1 ∧ t.st.toNat = u.st.toNat - 1 ∧ (t.trigger = true ↔ u.st.toNat = 1) ∧
    t = { u with dt := t.dt, st := t.st, trigger := t.trigger }

/-- A cycle request in the halted state fetches nothing, runs nothing and does not tick: but for the host's own agenda, keys
and dirty flag nothing changes. The trigger is 0 after it, also when the faulting cycle had raised it (60_exceptions.md
R176; the trigger is the model's reading of R176 and 10_state.md R44, DEDUCED, log 8). -/
def Obligations.HaltedCycleChangesNothing : Prop :=
  ∀ s : State, s.alive = false →
    step s = .next { s.hostTurn with trigger := false } ∧ (s.trigger = false → step s = .next s.hostTurn)

/-- No step leaves the halted state, and a fault report is never overwritten (60_exceptions.md R176;
10_state.md R38, R39; the closed halted state is D21, log 8). -/
def Obligations.HaltIsForGood : Prop :=
  ∀ s t : State, step s = .next t →
    (s.alive = false → t.alive = false ∧ t.diag = s.diag) ∧ (t.alive = true → t.diag = s.diag)

/-- Faults are precise: a cycle that halts the run has recorded the fetched word and its address, the cause is the one of
60_exceptions.md R171, and but for the host's turn and the tick nothing else has changed (R174, R175;
`SYS` is D2, log 13, the stack faults and the fault state D6, D7, log 16, 17). -/
def Obligations.FaultsArePrecise : Prop :=
  ∀ s t : State, s.alive = true → step s = .next t → t.alive = false →
    ∃ c, t = (s.hostTurn.clearTrigger.raise c s.fetchWord).tick ∧
      match c with
      | .unknownOpcode => s.nextInstr = none ∨ ∃ nnn, s.nextInstr = some (.sys nnn)
      | .stackOverflow => (∃ nnn, s.nextInstr = some (.call nnn)) ∧ s.sp = 16
      | .stackUnderflow => s.nextInstr = some .ret ∧ s.sp = 0

/-- A word that selects no row halts the run with `UnknownOpcode`, and the tick of that cycle still runs
(60_exceptions.md R172, R174; the tick and the pc are D7, log 17). -/
def Obligations.UndefinedWordHalts : Prop :=
  ∀ s : State, s.alive = true → s.nextInstr = none → ∃ u,
    runWord s.hostTurn.fetchWord s.hostTurn.clearTrigger = .next u ∧
    FaultsWith .unknownOpcode s.fetchWord s.hostTurn.clearTrigger u ∧ step s = .next u.tick

/-! ### The invariant -/

/-- The invariant holds after reset, and after reset is applied again to any machine (70_reset_and_hazards.md R200, R201;
log 6, log 11). -/
def Obligations.ResetMeetsInv : Prop := Inv State.reset ∧ ∀ s : State, Inv s.reinitialise

/-- Every step keeps the invariant, from every state that meets it: memory stays canonical, `pc`, `I` and every stack entry
stay below 4096, the fault report is there exactly when the run has halted and names `pc`, and a raised trigger finds the
sound timer at 0 (10_state.md R23, R34, R36, R38, R39; 60_exceptions.md R175, R186; the
masking of the containers is D4, log 15; that `pc` stays at the fault, so that the report names it, is D7, log 17; that a
trigger is raised in the tick that takes the sound timer to 0 is D19, log 28; the canonical form is the model's own,
log 27). -/
def Obligations.StepKeepsInv : Prop := ∀ s t : State, Inv s → step s = .next t → Inv t

/-- The loader keeps the invariant (70_reset_and_hazards.md R203). -/
def Obligations.LoaderKeepsInv : Prop :=
  ∀ (s : State) (bytes : List Byte) (offset : Nat), Inv s → Inv (State.loadBytes bytes offset s)

/-! ### Control transfer -/

/-- `SYS` raises `UnknownOpcode` with its word, on every state (40_flow.md R100; D2, log 13). -/
def Obligations.SysFaults : Prop :=
  ∀ (nnn : Addr12) (s : State), ∃ t, exec (.sys nnn) s = .next t ∧
    FaultsWith .unknownOpcode (BitVec.ofNat 16 nnn.toNat) s t

/-- `JP addr` sets `pc` to exactly `NNN` and changes nothing else (40_flow.md R102). -/
def Obligations.JumpSetsPc : Prop :=
  ∀ (nnn : Addr12) (s : State), ∃ t, exec (.jp nnn) s = .next t ∧ t.pc.toNat = nnn.toNat ∧ KeepsBeyondPc s t

/-- `JP V0, addr` sets `pc` to `NNN + V[0]` modulo 4096 and changes nothing else (40_flow.md R104; the register is D25,
log 24). -/
def Obligations.JumpV0AddsRegister : Prop :=
  ∀ (nnn : Addr12) (s : State), ∃ t, exec (.jpV0 nnn) s = .next t ∧
    t.pc.toNat = (nnn.toNat + (s.getV 0x0#4).toNat) % 4096 ∧ KeepsBeyondPc s t

/-- `CALL addr` with fewer than 16 entries in use writes the address after the call at `stack[sp]`, raises `sp` and sets
`pc`; the other entries and all else stay (40_flow.md R103; D5, log 16). -/
def Obligations.CallPushesReturn : Prop :=
  ∀ (nnn : Addr12) (s : State), s.sp.val < 16 → ∃ t, exec (.call nnn) s = .next t ∧
    t.pc.toNat = nnn.toNat ∧ t.sp.val = s.sp.val + 1 ∧
    (∀ k : Fin 16, t.stack[k].toNat = if k.val = s.sp.val then (s.pc.toNat + 2) % 4096 else s.stack[k].toNat) ∧
    KeepsV s t ∧ t.i = s.i ∧ KeepsMachine s t

/-- `CALL addr` with 16 entries in use raises `StackOverflow`, `RET` with none in use raises `StackUnderflow`, each with its
word (40_flow.md R101, R103, 60_exceptions.md R173; D6, log 16). -/
def Obligations.StackFaults : Prop :=
  ∀ (nnn : Addr12) (s : State),
    (s.sp.val = 16 → ∃ t, exec (.call nnn) s = .next t ∧
      FaultsWith .stackOverflow (BitVec.ofNat 16 (0x2000 + nnn.toNat)) s t) ∧
    (s.sp.val = 0 → ∃ t, exec .ret s = .next t ∧ FaultsWith .stackUnderflow 0x00EE#16 s t)

/-- `RET` with an entry in use lowers `sp` and sets `pc` to the popped entry, which is not erased (40_flow.md R101; D5,
log 16). -/
def Obligations.ReturnPops : Prop :=
  ∀ (s : State) (k : Fin 16), s.sp.val = k.val + 1 → ∃ t, exec .ret s = .next t ∧
    t.pc.toNat = s.stack[k].toNat % 4096 ∧ t.sp.val = k.val ∧ t.stack = s.stack ∧ KeepsV s t ∧ t.i = s.i ∧
    KeepsMachine s t

/-- A call, a run of the subroutine that leaves the stack as it finds it, and a return resume at the address after the
call with the stack pointer restored (40_flow.md R101, R103; D5, log 16). -/
def Obligations.CallThenReturn : Prop :=
  ∀ (nnn : Addr12) (s t u v : State), s.sp.val < 16 → exec (.call nnn) s = .next t →
    u.sp = t.sp → u.stack = t.stack → exec .ret u = .next v →
    v.pc.toNat = (s.pc.toNat + 2) % 4096 ∧ v.sp = s.sp ∧ v.alive = u.alive

/-! ### Skips -/

/-- `SE Vx, byte` skips on equality and changes only `pc` (41_skips.md R110). -/
def Obligations.SkipIfEqualByte : Prop :=
  ∀ (x : Nibble) (kk : Byte) (s : State), ∃ t, exec (.seImm x kk) s = .next t ∧ SkipsWhen (s.getV x = kk) s t

/-- `SNE Vx, byte` skips on inequality, `SE Vx, Vy` and `SNE Vx, Vy` on equality and inequality of two registers, whatever
the low field holds; only `pc` changes (41_skips.md R111 to R113; 30_encoding.md R78; D3, log 14). -/
def Obligations.SkipOtherComparisons : Prop :=
  ∀ (x y n : Nibble) (kk : Byte) (s : State),
    (∃ t, exec (.sneImm x kk) s = .next t ∧ SkipsWhen (s.getV x ≠ kk) s t) ∧
    (∃ t, exec (.seReg x y n) s = .next t ∧ SkipsWhen (s.getV x = s.getV y) s t) ∧
    (∃ t, exec (.sneReg x y n) s = .next t ∧ SkipsWhen (s.getV x ≠ s.getV y) s t)

/-- `SKP Vx` and `SKNP Vx` skip when the key the low 4 bits of `V[X]` select is pressed, and when it is not
(41_skips.md R114, R115; the low 4 bits are D14, log 22). -/
def Obligations.SkipOnKey : Prop :=
  ∀ (x : Nibble) (s : State),
    (∃ t, exec (.skp x) s = .next t ∧ SkipsWhen (s.keyDown (BitVec.ofNat 4 ((s.getV x).toNat % 16)) = true) s t) ∧
    (∃ t, exec (.sknp x) s = .next t ∧ SkipsWhen (s.keyDown (BitVec.ofNat 4 ((s.getV x).toNat % 16)) = false) s t)

/-! ### Loads, arithmetic, logic, shifts, random -/

/-- `LD Vx, byte` and `LD Vx, Vy`: `V[X]` is `NN`, or `V[Y]`; the other registers and all else stay (42_alu.md R120, R122). -/
def Obligations.LoadsSetRegister : Prop :=
  ∀ (x y : Nibble) (kk : Byte) (s : State),
    (∃ t, exec (.ldImm x kk) s = .next t ∧ (∀ k, t.getV k = if k = x then kk else s.getV k) ∧ Advances s t ∧
      KeepsBeyondV s t) ∧
    (∃ t, exec (.ldReg x y) s = .next t ∧ (∀ k, t.getV k = if k = x then s.getV y else s.getV k) ∧ Advances s t ∧
      KeepsBeyondV s t)

/-- `ADD Vx, byte`: `V[X]` is the sum modulo 256, the other registers stay, so `VF` too unless `X = 15` (42_alu.md R121;
no flag is D11, log 20). -/
def Obligations.AddImmediate : Prop :=
  ∀ (x : Nibble) (kk : Byte) (s : State), ∃ t, exec (.addImm x kk) s = .next t ∧
    (∀ k, (t.getV k).toNat = if k = x then ((s.getV x).toNat + kk.toNat) % 256 else (s.getV k).toNat) ∧
    Advances s t ∧ KeepsBeyondV s t

/-- `OR`, `AND`, `XOR`: bit by bit, the other registers stay, so `VF` too unless `X = 15` (42_alu.md R123, R124, R125; no
flag is D11, log 20). -/
def Obligations.LogicBitwise : Prop :=
  ∀ (x y : Nibble) (s : State),
    (∃ t, exec (.orReg x y) s = .next t ∧ (∀ k, k ≠ x → t.getV k = s.getV k) ∧
      (∀ j, (t.getV x).getLsbD j = ((s.getV x).getLsbD j || (s.getV y).getLsbD j)) ∧ Advances s t ∧ KeepsBeyondV s t) ∧
    (∃ t, exec (.andReg x y) s = .next t ∧ (∀ k, k ≠ x → t.getV k = s.getV k) ∧
      (∀ j, (t.getV x).getLsbD j = ((s.getV x).getLsbD j && (s.getV y).getLsbD j)) ∧ Advances s t ∧ KeepsBeyondV s t) ∧
    (∃ t, exec (.xorReg x y) s = .next t ∧ (∀ k, k ≠ x → t.getV k = s.getV k) ∧
      (∀ j, (t.getV x).getLsbD j = Bool.xor ((s.getV x).getLsbD j) ((s.getV y).getLsbD j)) ∧ Advances s t ∧
      KeepsBeyondV s t)

/-- `ADD Vx, Vy`: `V[X]` is the sum modulo 256 and then `VF` is 1 on unsigned overflow, else 0; with `X = 15` the carry
stays, with `Y = 15` the old `VF` is the operand (42_alu.md R126; the order of the writes with `X = 15` and of the read with
`Y = 15` is D9 of 10_state.md R29, log 18). -/
def Obligations.AddSetsCarry : Prop :=
  ∀ (x y : Nibble) (s : State), ∃ t, exec (.addReg x y) s = .next t ∧
    (∀ k, (t.getV k).toNat =
      if k = 0xF#4 then (if (s.getV x).toNat + (s.getV y).toNat > 255 then 1 else 0)
      else if k = x then ((s.getV x).toNat + (s.getV y).toNat) % 256
      else (s.getV k).toNat) ∧
    Advances s t ∧ KeepsBeyondV s t

/-- `SUB Vx, Vy`: `V[X]` is `V[X] - V[Y]` modulo 256 and then `VF` is 0 on borrow, else 1; with `X = 15`
the flag stays (42_alu.md R127; that order is D9 of 10_state.md R29, log 18). -/
def Obligations.SubSetsNotBorrow : Prop :=
  ∀ (x y : Nibble) (s : State), ∃ t, exec (.sub x y) s = .next t ∧
    (∀ k, (t.getV k).toNat =
      if k = 0xF#4 then (if (s.getV x).toNat < (s.getV y).toNat then 0 else 1)
      else if k = x then ((s.getV x).toNat + 256 - (s.getV y).toNat) % 256
      else (s.getV k).toNat) ∧
    Advances s t ∧ KeepsBeyondV s t

/-- `SUBN Vx, Vy`: `V[X]` is `V[Y] - V[X]` modulo 256 and then `VF` is 0 on borrow, else 1; with `X = 15`
the flag stays (42_alu.md R129; that order is D9 of 10_state.md R29, log 18). -/
def Obligations.ReverseSubSetsNotBorrow : Prop :=
  ∀ (x y : Nibble) (s : State), ∃ t, exec (.subn x y) s = .next t ∧
    (∀ k, (t.getV k).toNat =
      if k = 0xF#4 then (if (s.getV y).toNat < (s.getV x).toNat then 0 else 1)
      else if k = x then ((s.getV y).toNat + 256 - (s.getV x).toNat) % 256
      else (s.getV k).toNat) ∧
    Advances s t ∧ KeepsBeyondV s t

/-- `SHR Vx` and `SHL Vx` shift `V[X]` in place by one, whatever `Y` is, and then `VF` is the bit shifted out
(42_alu.md R128, R130; in place is D10, log 19, the order with `X = 15` is D9, log 18). -/
def Obligations.ShiftsSetBitOut : Prop :=
  ∀ (x y : Nibble) (s : State),
    (∃ t, exec (.shr x y) s = .next t ∧
      (∀ k, (t.getV k).toNat =
        if k = 0xF#4 then (s.getV x).toNat % 2 else if k = x then (s.getV x).toNat / 2 else (s.getV k).toNat) ∧
      Advances s t ∧ KeepsBeyondV s t) ∧
    (∃ t, exec (.shl x y) s = .next t ∧
      (∀ k, (t.getV k).toNat =
        if k = 0xF#4 then (s.getV x).toNat / 128 else if k = x then (s.getV x).toNat * 2 % 256 else (s.getV k).toNat) ∧
      Advances s t ∧ KeepsBeyondV s t)

/-- `RND Vx, byte` draws exactly one byte, whatever `NN` is, and stores it masked; nothing constrains the byte
(42_alu.md R131; the free byte is D16, log 4). -/
def Obligations.RandomIsMasked : Prop :=
  ∀ (x : Nibble) (kk : Byte) (s : State), ∃ (r : Byte) (t : State), exec (.rnd x kk) s = .next t ∧
    (∀ k, t.getV k = if k = x then r &&& kk else s.getV k) ∧ t.draws = s.draws + 1 ∧ t.picks = s.picks ∧
    Advances s t ∧ t.i = s.i ∧ KeepsStack s t ∧ KeepsTimers s t ∧ KeepsMemory s t ∧ KeepsDisplay s t ∧
    KeepsStatus s t ∧ KeepsHost s t

/-! ### Index register and memory -/

/-- `LD I, addr` sets `I` to `NNN`; `ADD I, Vx` adds `V[X]` to `I` modulo 4096 and leaves `VF` alone; `LD F, Vx` sets `I` to
`5 * d` for the digit `d` in the low 4 bits of `V[X]`; nothing else changes but `pc` (43_index_memory.md R140 to R142; the
wrap is D4, log 15, no flag is D11, log 20, the low 4 bits are D14, log 22). -/
def Obligations.IndexSetters : Prop :=
  ∀ (x : Nibble) (nnn : Addr12) (s : State),
    (∃ t, exec (.ldI nnn) s = .next t ∧ t.i.toNat = nnn.toNat ∧ Advances s t ∧ KeepsV s t ∧ KeepsStack s t ∧
      KeepsMachine s t) ∧
    (∃ t, exec (.addI x) s = .next t ∧ t.i.toNat = (s.i.toNat + (s.getV x).toNat) % 4096 ∧ Advances s t ∧ KeepsV s t ∧
      KeepsStack s t ∧ KeepsMachine s t) ∧
    (∃ t, exec (.ldF x) s = .next t ∧ t.i.toNat = 5 * ((s.getV x).toNat % 16) ∧ Advances s t ∧ KeepsV s t ∧
      KeepsStack s t ∧ KeepsMachine s t)

/-- `LD B, Vx` stores hundreds, tens and units at `I`, `I + 1`, `I + 2`, each address reduced on its own; every other byte,
every register and `I` stay (43_index_memory.md R143). -/
def Obligations.BcdStoresDigits : Prop :=
  ∀ (x : Nibble) (s : State), ∃ t, exec (.ldB x) s = .next t ∧
    (t.readByte s.i.toNat).toNat = (s.getV x).toNat / 100 ∧
    (t.readByte (s.i.toNat + 1)).toNat = (s.getV x).toNat / 10 % 10 ∧
    (t.readByte (s.i.toNat + 2)).toNat = (s.getV x).toNat % 10 ∧
    (∀ a, (∀ j, j < 3 → a % 4096 ≠ (s.i.toNat + j) % 4096) → t.readByte a = s.readByte a) ∧
    Advances s t ∧ KeepsV s t ∧ t.i = s.i ∧ KeepsStack s t ∧ KeepsTimers s t ∧ KeepsDisplay s t ∧ KeepsStatus s t ∧
    KeepsHost s t ∧ KeepsFree s t

/-- `LD [I], Vx` stores `V[0..X]` at `I + i`, each address reduced on its own, and moves `I` by `X + 1`; every other byte
and every register stay (43_index_memory.md R144; the move is D22, log 23). -/
def Obligations.DumpStoresRegisters : Prop :=
  ∀ (x : Nibble) (s : State), ∃ t, exec (.dump x) s = .next t ∧
    (∀ k : Nibble, k.toNat ≤ x.toNat → t.readByte (s.i.toNat + k.toNat) = s.getV k) ∧
    (∀ a, (∀ j, j ≤ x.toNat → a % 4096 ≠ (s.i.toNat + j) % 4096) → t.readByte a = s.readByte a) ∧
    t.i.toNat = (s.i.toNat + x.toNat + 1) % 4096 ∧ Advances s t ∧ KeepsV s t ∧ KeepsStack s t ∧ KeepsTimers s t ∧
    KeepsDisplay s t ∧ KeepsStatus s t ∧ KeepsHost s t ∧ KeepsFree s t

/-- `LD Vx, [I]` loads `V[0..X]` from `I + i` and moves `I` by `X + 1`; the other registers and memory stay
(43_index_memory.md R145; the move is D22, log 23). -/
def Obligations.LoadFillsRegisters : Prop :=
  ∀ (x : Nibble) (s : State), ∃ t, exec (.load x) s = .next t ∧
    (∀ k : Nibble, t.getV k = if k.toNat ≤ x.toNat then s.readByte (s.i.toNat + k.toNat) else s.getV k) ∧
    t.i.toNat = (s.i.toNat + x.toNat + 1) % 4096 ∧ Advances s t ∧ KeepsStack s t ∧ KeepsMachine s t

/-- A dump followed, from the same `I` and the memory it left, by a load restores `V[0..X]`, and `I` advances by the same
amount (43_index_memory.md R144, R145; D22, log 23). -/
def Obligations.DumpThenLoadRestores : Prop :=
  ∀ (x : Nibble) (s t u v : State), exec (.dump x) s = .next t → u.mem = t.mem → u.fonts = t.fonts → u.i = s.i →
    exec (.load x) u = .next v →
    (∀ k : Nibble, k.toNat ≤ x.toNat → v.getV k = s.getV k) ∧ v.i = t.i

/-! ### Display -/

/-- `CLS` turns every cell off and sets the dirty flag, and changes nothing else but `pc` (44_display.md R150). -/
def Obligations.ClearScreen : Prop :=
  ∀ s : State, ∃ t, exec .cls s = .next t ∧ (∀ x y, cell t.disp x y = false) ∧ t.drawn = true ∧ Advances s t ∧
    KeepsV s t ∧ t.i = s.i ∧ KeepsStack s t ∧ KeepsTimers s t ∧ KeepsMemory s t ∧ KeepsStatus s t ∧ KeepsHost s t ∧
    KeepsFree s t

/-- `DRW` flips exactly the cells a set bit of the sprite covers, each pixel wrapped on its own; `VF` is 1 exactly when a
covered cell was on; the dirty flag is set; nothing else changes but `pc` (44_display.md R151 to R155; wrap, bit order and
height 0 are D12 and D13, log 21, the flag with `X = 15` is D9, log 18). -/
def Obligations.DrawFlipsCoveredCells : Prop :=
  ∀ (x y n : Nibble) (s : State), ∃ t, exec (.drw x y n) s = .next t ∧
    (∀ px py, cell t.disp px py =
      Bool.xor (cell s.disp px py) (spriteCovers s (s.getV x).toNat (s.getV y).toNat n.toNat px py)) ∧
    (t.getV 0xF#4 = 0x00#8 ∨ t.getV 0xF#4 = 0x01#8) ∧
    (t.getV 0xF#4 = 0x01#8 ↔ ∃ px py, cell s.disp px py = true ∧
      spriteCovers s (s.getV x).toNat (s.getV y).toNat n.toNat px py = true) ∧
    (∀ k, k ≠ 0xF#4 → t.getV k = s.getV k) ∧ t.drawn = true ∧ Advances s t ∧ t.i = s.i ∧ KeepsStack s t ∧
    KeepsTimers s t ∧ KeepsMemory s t ∧ KeepsStatus s t ∧ KeepsHost s t ∧ KeepsFree s t

/-- Drawing the same sprite twice at the same place restores the display, and the second draw sets `VF` exactly when the
first one turned a cell on; on cells that were off that is when the sprite has a 1 bit (44_display.md R151, R155; D12,
log 21; the words of R155's corner case taken for every display would contradict R151, log 31). -/
def Obligations.DrawTwiceRestores : Prop :=
  ∀ (x y n : Nibble) (s t u v : State), exec (.drw x y n) s = .next t →
    u.disp = t.disp → u.mem = s.mem → u.fonts = s.fonts → u.i = s.i → u.getV x = s.getV x → u.getV y = s.getV y →
    exec (.drw x y n) u = .next v →
    v.disp = s.disp ∧
    (v.getV 0xF#4 = 0x01#8 ↔ ∃ px py, cell s.disp px py = false ∧
      spriteCovers s (s.getV x).toNat (s.getV y).toNat n.toNat px py = true) ∧
    ((∀ px py, cell s.disp px py = false) →
      (v.getV 0xF#4 = 0x01#8 ↔ ∃ r, r < n.toNat ∧ s.readByte (s.i.toNat + r) ≠ 0x00#8))

/-! ### Timers and keys -/

/-- `LD Vx, DT`, `LD DT, Vx` and `LD ST, Vx` move a byte between a register and a timer (45_timers_keys.md R160, R162,
R163, before the tick). -/
def Obligations.TimerMoves : Prop :=
  ∀ (x : Nibble) (s : State),
    (∃ t, exec (.ldVxDT x) s = .next t ∧ (∀ k, t.getV k = if k = x then s.dt else s.getV k) ∧ Advances s t ∧
      KeepsBeyondV s t) ∧
    (∃ t, exec (.ldDTVx x) s = .next t ∧ t.dt = s.getV x ∧ t.st = s.st ∧ Advances s t ∧ KeepsV s t ∧ t.i = s.i ∧
      KeepsStack s t ∧ KeepsMemory s t ∧ KeepsDisplay s t ∧ KeepsStatus s t ∧ KeepsHost s t ∧ KeepsFree s t) ∧
    (∃ t, exec (.ldSTVx x) s = .next t ∧ t.st = s.getV x ∧ t.dt = s.dt ∧ Advances s t ∧ KeepsV s t ∧ t.i = s.i ∧
      KeepsStack s t ∧ KeepsMemory s t ∧ KeepsDisplay s t ∧ KeepsStatus s t ∧ KeepsHost s t ∧ KeepsFree s t)

/-- The key-wait with no key pressed changes nothing (45_timers_keys.md R161). -/
def Obligations.KeyWaitHolds : Prop :=
  ∀ (x : Nibble) (s : State), (∀ k, s.keyDown k = false) → exec (.ldVxK x) s = .next s

/-- The key-wait with a key pressed records a pressed key, the pressed key when there is only one, and advances
(45_timers_keys.md R161; which of several is free, D15, log 5). -/
def Obligations.KeyWaitRecords : Prop :=
  ∀ (x : Nibble) (s : State), (∃ k, s.keyDown k = true) → ∃ (k : Nibble) (t : State), exec (.ldVxK x) s = .next t ∧
    s.keyDown k = true ∧ (∀ j, t.getV j = if j = x then BitVec.ofNat 8 k.toNat else s.getV j) ∧ Advances s t ∧
    t.i = s.i ∧ KeepsStack s t ∧ KeepsTimers s t ∧ KeepsMemory s t ∧ KeepsDisplay s t ∧ KeepsStatus s t ∧
    KeepsHost s t ∧ t.draws = s.draws ∧ t.picks = s.picks + 1

/-- After `N` cycles with no writes to a timer its value is `max(0, initial - N)`, and a cycle that writes a timer leaves
`max(0, V[X] - 1)` (60_exceptions.md R185; the last of the cycles may fault and still tick, D7, log 17; a halted machine
does not tick, so the cycles are those of a machine that runs, D21, log 8). -/
def Obligations.TimerLaw : Prop :=
  (∀ (n : Nat) (s t : State), LeavesDT n s → core.run n s = .next t → t.dt.toNat = s.dt.toNat - n) ∧
  (∀ (n : Nat) (s t : State), LeavesST n s → core.run n s = .next t → t.st.toNat = s.st.toNat - n) ∧
  (∀ (x : Nibble) (s t : State), s.alive = true → step s = .next t →
    (s.nextInstr = some (.ldDTVx x) → t.dt.toNat = (s.getV x).toNat - 1) ∧
    (s.nextInstr = some (.ldSTVx x) → t.st.toNat = (s.getV x).toNat - 1))

/-! ### Whole-machine rules -/

/-- `pc` changes in exactly the ways of the table of 10_state.md R25, for every instruction: which way each
takes is its own rule (40_flow.md R100 to R104, 41_skips.md R110 to R115, 45_timers_keys.md R161). That `SYS` raises and so
leaves `pc` is D2, log 13; that `CALL` at `sp = 16` and `RET` at `sp = 0` raise is D6, log 16; the entry that `RET` pops is
D5, log 16; the fault row is D7, log 17; the register of `JP V0` D25, log 24; the masking of `pc` D4, log 15. -/
def Obligations.PcChangesByTable : Prop :=
  ∀ (i : Instr) (s t : State), exec i s = .next t →
    match i with
    | .sys _ => t.pc = s.pc
    | .jp nnn => t.pc.toNat = nnn.toNat
    | .call nnn => if s.sp.val = 16 then t.pc = s.pc else t.pc.toNat = nnn.toNat
    | .ret => (s.sp.val = 0 → t.pc = s.pc) ∧ ∀ k : Fin 16, s.sp.val = k.val + 1 → t.pc.toNat = s.stack[k].toNat % 4096
    | .jpV0 nnn => t.pc.toNat = (nnn.toNat + (s.getV 0x0#4).toNat) % 4096
    | .seImm _ _ | .sneImm _ _ | .seReg _ _ _ | .sneReg _ _ _ | .skp _ | .sknp _ =>
      t.pc.toNat = (s.pc.toNat + 2) % 4096 ∨ t.pc.toNat = (s.pc.toNat + 4) % 4096
    | .ldVxK _ => if (∃ k, s.keyDown k = true) then t.pc.toNat = (s.pc.toNat + 2) % 4096 else t.pc = s.pc
    | .cls | .ldImm _ _ | .addImm _ _ | .ldReg _ _ | .orReg _ _ | .andReg _ _ | .xorReg _ _ | .addReg _ _ | .sub _ _
    | .shr _ _ | .subn _ _ | .shl _ _ | .ldI _ | .rnd _ _ | .drw _ _ _ | .ldVxDT _ | .ldDTVx _ | .ldSTVx _ | .addI _
    | .ldF _ | .ldB _ | .dump _ | .load _ => t.pc.toNat = (s.pc.toNat + 2) % 4096

/-- `VF` after an instruction: exactly 0 or 1 after the six that write it as a flag, unchanged after any other that does not
name register 15 in its `X` field (10_state.md R27 to R29; D9, D11, log 18, 20). -/
def Obligations.FlagWritersExactly : Prop :=
  ∀ (i : Instr) (s t : State), exec i s = .next t →
    (WritesFlag i = true → t.getV 0xF#4 = 0x00#8 ∨ t.getV 0xF#4 = 0x01#8) ∧
    (WritesFlag i = false → destination i ≠ some 0xF#4 → t.getV 0xF#4 = s.getV 0xF#4)

/-- Only `LD B, Vx` and `LD [I], Vx` change memory, and only the bytes they store from `I` on (20_memory.md R57). -/
def Obligations.MemoryWritersExactly : Prop :=
  ∀ (i : Instr) (s t : State), exec i s = .next t →
    ∀ a, (∀ j, j < storedBytes i → a % 4096 ≠ (s.i.toNat + j) % 4096) → t.readByte a = s.readByte a

/-- Only `CLS` and `DRW` change the display, both set the dirty flag, no other instruction touches it and none clears it
(10_state.md R40, R42). -/
def Obligations.DisplayWritersExactly : Prop :=
  ∀ (i : Instr) (s t : State), exec i s = .next t →
    ((i = .cls ∨ ∃ x y n, i = .drw x y n) → t.drawn = true) ∧
    ((i ≠ .cls ∧ ∀ x y n, i ≠ .drw x y n) → t.disp = s.disp ∧ t.drawn = s.drawn)

/-- Only five instructions change `I`, only `CALL` writes the stack, only `CALL` and `RET` move `sp`, only `LD DT` and
`LD ST` change their timers, and no instruction changes a key, the trigger, the fonts or the agenda (10_state.md R34, R36,
R37, R43, R44; fonts and agenda are the model's own fields, log 2, log 10). -/
def Obligations.OtherWritersExactly : Prop :=
  ∀ (i : Instr) (s t : State), exec i s = .next t →
    (t.i ≠ s.i → (∃ nnn, i = .ldI nnn) ∨ ∃ x, i = .addI x ∨ i = .ldF x ∨ i = .dump x ∨ i = .load x) ∧
    (t.stack ≠ s.stack → ∃ nnn, i = .call nnn) ∧ (t.sp ≠ s.sp → i = .ret ∨ ∃ nnn, i = .call nnn) ∧
    (t.dt ≠ s.dt → ∃ x, i = .ldDTVx x) ∧ (t.st ≠ s.st → ∃ x, i = .ldSTVx x) ∧
    t.key = s.key ∧ t.trigger = s.trigger ∧ t.fonts = s.fonts ∧ t.agenda = s.agenda

/-- What a program cannot read does not reach it: two states that differ in the sound timer, the dirty flag, the fault
report, the trigger and the host's agenda run every instruction to the same `V`, `I`, `pc`, stack, delay timer, memory,
display and `alive` (10_state.md R37, R39, R40, R44). -/
def Obligations.UnreadableStateStaysOut : Prop :=
  ∀ (i : Instr) (s t : State) (st : Byte) (drawn trigger : Bool) (diag : Option Diag) (agenda : List (List HostEvent)),
    exec i s = .next t → ∃ u,
      exec i { s with st := st, drawn := drawn, trigger := trigger, diag := diag, agenda := agenda } = .next u ∧
      u = { t with st := u.st, drawn := u.drawn, trigger := trigger, diag := u.diag, agenda := agenda }
end

