-- ==== Sys2Proof/Laws/Decode.lean ====
section
/-!
SUPPORT. The fields of a word as naturals, the fields of each encoding format, and the two bytes of a word.
-/

namespace Sys2Proof

theorem fieldOp_toNat (w : Word16) : (fieldOp w).toNat = w.toNat / 4096 := by
  have := w.isLt
  simp only [fieldOp, BitVec.extractLsb'_toNat, Nat.shiftRight_eq_div_pow]; omega

theorem fieldX_toNat (w : Word16) : (fieldX w).toNat = w.toNat / 256 % 16 := by
  simp [fieldX, Nat.shiftRight_eq_div_pow]

theorem fieldY_toNat (w : Word16) : (fieldY w).toNat = w.toNat / 16 % 16 := by
  simp [fieldY, Nat.shiftRight_eq_div_pow]

theorem fieldN_toNat (w : Word16) : (fieldN w).toNat = w.toNat % 16 := by simp [fieldN]

theorem fieldNN_toNat (w : Word16) : (fieldNN w).toNat = w.toNat % 256 := by simp [fieldNN]

theorem fieldNNN_toNat (w : Word16) : (fieldNNN w).toNat = w.toNat % 4096 := by simp [fieldNNN]

theorem formatA_toNat {op : Nat} (h : op < 16) (nnn : Addr12) : (formatA op nnn).toNat = op * 4096 + nnn.toNat := by
  have := nnn.isLt
  simp only [formatA, BitVec.toNat_ofNat]; omega

theorem formatXNN_toNat {op : Nat} (h : op < 16) (x : Nibble) (kk : Byte) :
    (formatXNN op x kk).toNat = op * 4096 + x.toNat * 256 + kk.toNat := by
  have := x.isLt; have := kk.isLt
  simp only [formatXNN, BitVec.toNat_ofNat]; omega

theorem formatXYN_toNat {op : Nat} (h : op < 16) (x y n : Nibble) :
    (formatXYN op x y n).toNat = op * 4096 + x.toNat * 256 + y.toNat * 16 + n.toNat := by
  have := x.isLt; have := y.isLt; have := n.isLt
  simp only [formatXYN, BitVec.toNat_ofNat]; omega

theorem fields_formatA {op : Nat} (h : op < 16) (nnn : Addr12) :
    (fieldOp (formatA op nnn)).toNat = op ∧ fieldNNN (formatA op nnn) = nnn := by
  have := nnn.isLt
  refine ⟨by rw [fieldOp_toNat, formatA_toNat h]; omega, BitVec.eq_of_toNat_eq ?_⟩
  rw [fieldNNN_toNat, formatA_toNat h]; omega

theorem fields_formatXNN {op : Nat} (h : op < 16) (x : Nibble) (kk : Byte) :
    (fieldOp (formatXNN op x kk)).toNat = op ∧ fieldX (formatXNN op x kk) = x ∧ fieldNN (formatXNN op x kk) = kk := by
  have := x.isLt; have := kk.isLt
  refine ⟨?_, BitVec.eq_of_toNat_eq ?_, BitVec.eq_of_toNat_eq ?_⟩ <;>
    simp only [fieldOp_toNat, fieldX_toNat, fieldNN_toNat, formatXNN_toNat h] <;> omega

theorem fields_formatXYN {op : Nat} (h : op < 16) (x y n : Nibble) :
    (fieldOp (formatXYN op x y n)).toNat = op ∧ fieldX (formatXYN op x y n) = x ∧ fieldY (formatXYN op x y n) = y ∧
      fieldN (formatXYN op x y n) = n := by
  have := x.isLt; have := y.isLt; have := n.isLt
  refine ⟨?_, BitVec.eq_of_toNat_eq ?_, BitVec.eq_of_toNat_eq ?_, BitVec.eq_of_toNat_eq ?_⟩ <;>
    simp only [fieldOp_toNat, fieldX_toNat, fieldY_toNat, fieldN_toNat, formatXYN_toNat h] <;> omega

/-- A word put together again from its two bytes (30_encoding.md R85, 20_memory.md R52). -/
@[simp] theorem wordOfBytes_bytes (w : Word16) : wordOfBytes (highByte w) (lowByte w) = w := by
  have := w.isLt
  apply BitVec.eq_of_toNat_eq
  simp only [wordOfBytes, highByte, lowByte, BitVec.toNat_ofNat, BitVec.extractLsb'_toNat,
    Nat.shiftRight_eq_div_pow]
  omega

theorem wordOfBytes_toNat (hi lo : Byte) : (wordOfBytes hi lo).toNat = hi.toNat * 256 + lo.toNat := by
  have := hi.isLt; have := lo.isLt
  simp only [wordOfBytes, BitVec.toNat_ofNat]; omega

/-- Two bytes decode as their word does. -/
theorem decode_two (hi lo : Byte) (rest : List Byte) (i : Instr) :
    decode (hi :: lo :: rest) = .ok (i, rest) ↔ decodeWord (wordOfBytes hi lo) = .ok i := by
  simp only [decode]
  cases decodeWord (wordOfBytes hi lo) <;> simp

theorem fieldOp_eq {w : Word16} {op : Nat} (h : (fieldOp w).toNat = op) : fieldOp w = BitVec.ofNat 4 op := by
  subst h; simp

/-- The three masks of the table of 30_encoding.md R76 that leave fields out, as the fields they keep. -/
theorem and_maskOp (w : Word16) : w &&& 0xF000#16 = fieldOp w ++ 0x000#12 := by
  apply BitVec.eq_of_getLsbD_eq
  intro i hi
  rw [BitVec.getLsbD_append, fieldOp]
  interval_cases i <;> simp

theorem and_maskOpN (w : Word16) : w &&& 0xF00F#16 = fieldOp w ++ 0x00#8 ++ fieldN w := by
  apply BitVec.eq_of_getLsbD_eq
  intro i hi
  rw [BitVec.getLsbD_append, BitVec.getLsbD_append, fieldOp, fieldN]
  interval_cases i <;> simp

theorem and_maskOpNN (w : Word16) : w &&& 0xF0FF#16 = fieldOp w ++ 0x0#4 ++ fieldNN w := by
  apply BitVec.eq_of_getLsbD_eq
  intro i hi
  rw [BitVec.getLsbD_append, BitVec.getLsbD_append, fieldOp, fieldNN]
  interval_cases i <;> simp

/-- The masked word of each encoding format. -/
theorem formatA_and_mask {op : Nat} (h : op < 16) (nnn : Addr12) :
    formatA op nnn &&& 0xF000#16 = BitVec.ofNat 4 op ++ 0x000#12 := by
  rw [and_maskOp, fieldOp_eq (fields_formatA h nnn).1]

theorem formatXNN_and_mask {op : Nat} (h : op < 16) (x : Nibble) (kk : Byte) :
    formatXNN op x kk &&& 0xF000#16 = BitVec.ofNat 4 op ++ 0x000#12 := by
  rw [and_maskOp, fieldOp_eq (fields_formatXNN h x kk).1]

theorem formatXNN_and_maskNN {op : Nat} (h : op < 16) (x : Nibble) (kk : Byte) :
    formatXNN op x kk &&& 0xF0FF#16 = BitVec.ofNat 4 op ++ 0x0#4 ++ kk := by
  rw [and_maskOpNN, fieldOp_eq (fields_formatXNN h x kk).1, (fields_formatXNN h x kk).2.2]

theorem formatXYN_and_mask {op : Nat} (h : op < 16) (x y n : Nibble) :
    formatXYN op x y n &&& 0xF000#16 = BitVec.ofNat 4 op ++ 0x000#12 := by
  rw [and_maskOp, fieldOp_eq (fields_formatXYN h x y n).1]

theorem formatXYN_and_maskN {op : Nat} (h : op < 16) (x y n : Nibble) :
    formatXYN op x y n &&& 0xF00F#16 = BitVec.ofNat 4 op ++ 0x00#8 ++ n := by
  rw [and_maskOpN, fieldOp_eq (fields_formatXYN h x y n).1, (fields_formatXYN h x y n).2.2.2]

end Sys2Proof
end

