-- ==== Sys2Proof/Laws/State.lean ====
section
/-!
SUPPORT. Each field, and each accessor, after each update of the state: true by unfolding the update once, so that no later
proof does (one lemma per field per update).
-/

namespace Sys2Proof.Machine

variable (s : State)

/-! ### `setV` -/

@[simp] theorem State.setV_v (x : Nibble) (b : Byte) : (s.setV x b).v = s.v.set x.toNat b x.isLt := rfl
@[simp] theorem State.setV_i (x : Nibble) (b : Byte) : (s.setV x b).i = s.i := rfl
@[simp] theorem State.setV_pc (x : Nibble) (b : Byte) : (s.setV x b).pc = s.pc := rfl
@[simp] theorem State.setV_sp (x : Nibble) (b : Byte) : (s.setV x b).sp = s.sp := rfl
@[simp] theorem State.setV_stack (x : Nibble) (b : Byte) : (s.setV x b).stack = s.stack := rfl
@[simp] theorem State.setV_dt (x : Nibble) (b : Byte) : (s.setV x b).dt = s.dt := rfl
@[simp] theorem State.setV_st (x : Nibble) (b : Byte) : (s.setV x b).st = s.st := rfl
@[simp] theorem State.setV_mem (x : Nibble) (b : Byte) : (s.setV x b).mem = s.mem := rfl
@[simp] theorem State.setV_disp (x : Nibble) (b : Byte) : (s.setV x b).disp = s.disp := rfl
@[simp] theorem State.setV_key (x : Nibble) (b : Byte) : (s.setV x b).key = s.key := rfl
@[simp] theorem State.setV_drawn (x : Nibble) (b : Byte) : (s.setV x b).drawn = s.drawn := rfl
@[simp] theorem State.setV_alive (x : Nibble) (b : Byte) : (s.setV x b).alive = s.alive := rfl
@[simp] theorem State.setV_diag (x : Nibble) (b : Byte) : (s.setV x b).diag = s.diag := rfl
@[simp] theorem State.setV_trigger (x : Nibble) (b : Byte) : (s.setV x b).trigger = s.trigger := rfl
@[simp] theorem State.setV_draws (x : Nibble) (b : Byte) : (s.setV x b).draws = s.draws := rfl
@[simp] theorem State.setV_picks (x : Nibble) (b : Byte) : (s.setV x b).picks = s.picks := rfl
@[simp] theorem State.setV_fonts (x : Nibble) (b : Byte) : (s.setV x b).fonts = s.fonts := rfl
@[simp] theorem State.setV_agenda (x : Nibble) (b : Byte) : (s.setV x b).agenda = s.agenda := rfl
@[simp] theorem State.setV_readByte (x : Nibble) (b : Byte) (n : Nat) : (s.setV x b).readByte n = s.readByte n := rfl
@[simp] theorem State.setV_keyDown (x : Nibble) (b : Byte) (j : Nibble) : (s.setV x b).keyDown j = s.keyDown j := rfl

/-! ### `setI` -/

@[simp] theorem State.setI_v (a : Nat) : (s.setI a).v = s.v := rfl
@[simp] theorem State.setI_i (a : Nat) : (s.setI a).i = addr16 a := rfl
@[simp] theorem State.setI_pc (a : Nat) : (s.setI a).pc = s.pc := rfl
@[simp] theorem State.setI_sp (a : Nat) : (s.setI a).sp = s.sp := rfl
@[simp] theorem State.setI_stack (a : Nat) : (s.setI a).stack = s.stack := rfl
@[simp] theorem State.setI_dt (a : Nat) : (s.setI a).dt = s.dt := rfl
@[simp] theorem State.setI_st (a : Nat) : (s.setI a).st = s.st := rfl
@[simp] theorem State.setI_mem (a : Nat) : (s.setI a).mem = s.mem := rfl
@[simp] theorem State.setI_disp (a : Nat) : (s.setI a).disp = s.disp := rfl
@[simp] theorem State.setI_key (a : Nat) : (s.setI a).key = s.key := rfl
@[simp] theorem State.setI_drawn (a : Nat) : (s.setI a).drawn = s.drawn := rfl
@[simp] theorem State.setI_alive (a : Nat) : (s.setI a).alive = s.alive := rfl
@[simp] theorem State.setI_diag (a : Nat) : (s.setI a).diag = s.diag := rfl
@[simp] theorem State.setI_trigger (a : Nat) : (s.setI a).trigger = s.trigger := rfl
@[simp] theorem State.setI_draws (a : Nat) : (s.setI a).draws = s.draws := rfl
@[simp] theorem State.setI_picks (a : Nat) : (s.setI a).picks = s.picks := rfl
@[simp] theorem State.setI_fonts (a : Nat) : (s.setI a).fonts = s.fonts := rfl
@[simp] theorem State.setI_agenda (a : Nat) : (s.setI a).agenda = s.agenda := rfl
@[simp] theorem State.setI_getV (a : Nat) (j : Nibble) : (s.setI a).getV j = s.getV j := rfl
@[simp] theorem State.setI_readByte (a : Nat) (n : Nat) : (s.setI a).readByte n = s.readByte n := rfl
@[simp] theorem State.setI_keyDown (a : Nat) (j : Nibble) : (s.setI a).keyDown j = s.keyDown j := rfl

/-! ### `setPc` -/

@[simp] theorem State.setPc_v (a : Nat) : (s.setPc a).v = s.v := rfl
@[simp] theorem State.setPc_i (a : Nat) : (s.setPc a).i = s.i := rfl
@[simp] theorem State.setPc_pc (a : Nat) : (s.setPc a).pc = addr16 a := rfl
@[simp] theorem State.setPc_sp (a : Nat) : (s.setPc a).sp = s.sp := rfl
@[simp] theorem State.setPc_stack (a : Nat) : (s.setPc a).stack = s.stack := rfl
@[simp] theorem State.setPc_dt (a : Nat) : (s.setPc a).dt = s.dt := rfl
@[simp] theorem State.setPc_st (a : Nat) : (s.setPc a).st = s.st := rfl
@[simp] theorem State.setPc_mem (a : Nat) : (s.setPc a).mem = s.mem := rfl
@[simp] theorem State.setPc_disp (a : Nat) : (s.setPc a).disp = s.disp := rfl
@[simp] theorem State.setPc_key (a : Nat) : (s.setPc a).key = s.key := rfl
@[simp] theorem State.setPc_drawn (a : Nat) : (s.setPc a).drawn = s.drawn := rfl
@[simp] theorem State.setPc_alive (a : Nat) : (s.setPc a).alive = s.alive := rfl
@[simp] theorem State.setPc_diag (a : Nat) : (s.setPc a).diag = s.diag := rfl
@[simp] theorem State.setPc_trigger (a : Nat) : (s.setPc a).trigger = s.trigger := rfl
@[simp] theorem State.setPc_draws (a : Nat) : (s.setPc a).draws = s.draws := rfl
@[simp] theorem State.setPc_picks (a : Nat) : (s.setPc a).picks = s.picks := rfl
@[simp] theorem State.setPc_fonts (a : Nat) : (s.setPc a).fonts = s.fonts := rfl
@[simp] theorem State.setPc_agenda (a : Nat) : (s.setPc a).agenda = s.agenda := rfl
@[simp] theorem State.setPc_getV (a : Nat) (j : Nibble) : (s.setPc a).getV j = s.getV j := rfl
@[simp] theorem State.setPc_readByte (a : Nat) (n : Nat) : (s.setPc a).readByte n = s.readByte n := rfl
@[simp] theorem State.setPc_keyDown (a : Nat) (j : Nibble) : (s.setPc a).keyDown j = s.keyDown j := rfl

/-! ### `advance` -/

@[simp] theorem State.advance_v : (s.advance).v = s.v := rfl
@[simp] theorem State.advance_i : (s.advance).i = s.i := rfl
@[simp] theorem State.advance_pc : (s.advance).pc = addr16 (s.pc.toNat + 2) := rfl
@[simp] theorem State.advance_sp : (s.advance).sp = s.sp := rfl
@[simp] theorem State.advance_stack : (s.advance).stack = s.stack := rfl
@[simp] theorem State.advance_dt : (s.advance).dt = s.dt := rfl
@[simp] theorem State.advance_st : (s.advance).st = s.st := rfl
@[simp] theorem State.advance_mem : (s.advance).mem = s.mem := rfl
@[simp] theorem State.advance_disp : (s.advance).disp = s.disp := rfl
@[simp] theorem State.advance_key : (s.advance).key = s.key := rfl
@[simp] theorem State.advance_drawn : (s.advance).drawn = s.drawn := rfl
@[simp] theorem State.advance_alive : (s.advance).alive = s.alive := rfl
@[simp] theorem State.advance_diag : (s.advance).diag = s.diag := rfl
@[simp] theorem State.advance_trigger : (s.advance).trigger = s.trigger := rfl
@[simp] theorem State.advance_draws : (s.advance).draws = s.draws := rfl
@[simp] theorem State.advance_picks : (s.advance).picks = s.picks := rfl
@[simp] theorem State.advance_fonts : (s.advance).fonts = s.fonts := rfl
@[simp] theorem State.advance_agenda : (s.advance).agenda = s.agenda := rfl
@[simp] theorem State.advance_getV (j : Nibble) : (s.advance).getV j = s.getV j := rfl
@[simp] theorem State.advance_readByte (n : Nat) : (s.advance).readByte n = s.readByte n := rfl
@[simp] theorem State.advance_keyDown (j : Nibble) : (s.advance).keyDown j = s.keyDown j := rfl

/-! ### `skip` -/

@[simp] theorem State.skip_v : (s.skip).v = s.v := rfl
@[simp] theorem State.skip_i : (s.skip).i = s.i := rfl
@[simp] theorem State.skip_pc : (s.skip).pc = addr16 (s.pc.toNat + 4) := rfl
@[simp] theorem State.skip_sp : (s.skip).sp = s.sp := rfl
@[simp] theorem State.skip_stack : (s.skip).stack = s.stack := rfl
@[simp] theorem State.skip_dt : (s.skip).dt = s.dt := rfl
@[simp] theorem State.skip_st : (s.skip).st = s.st := rfl
@[simp] theorem State.skip_mem : (s.skip).mem = s.mem := rfl
@[simp] theorem State.skip_disp : (s.skip).disp = s.disp := rfl
@[simp] theorem State.skip_key : (s.skip).key = s.key := rfl
@[simp] theorem State.skip_drawn : (s.skip).drawn = s.drawn := rfl
@[simp] theorem State.skip_alive : (s.skip).alive = s.alive := rfl
@[simp] theorem State.skip_diag : (s.skip).diag = s.diag := rfl
@[simp] theorem State.skip_trigger : (s.skip).trigger = s.trigger := rfl
@[simp] theorem State.skip_draws : (s.skip).draws = s.draws := rfl
@[simp] theorem State.skip_picks : (s.skip).picks = s.picks := rfl
@[simp] theorem State.skip_fonts : (s.skip).fonts = s.fonts := rfl
@[simp] theorem State.skip_agenda : (s.skip).agenda = s.agenda := rfl
@[simp] theorem State.skip_getV (j : Nibble) : (s.skip).getV j = s.getV j := rfl
@[simp] theorem State.skip_readByte (n : Nat) : (s.skip).readByte n = s.readByte n := rfl
@[simp] theorem State.skip_keyDown (j : Nibble) : (s.skip).keyDown j = s.keyDown j := rfl

/-! ### `writeByte` -/

@[simp] theorem State.writeByte_v (a : Nat) (b : Byte) : (s.writeByte a b).v = s.v := rfl
@[simp] theorem State.writeByte_i (a : Nat) (b : Byte) : (s.writeByte a b).i = s.i := rfl
@[simp] theorem State.writeByte_pc (a : Nat) (b : Byte) : (s.writeByte a b).pc = s.pc := rfl
@[simp] theorem State.writeByte_sp (a : Nat) (b : Byte) : (s.writeByte a b).sp = s.sp := rfl
@[simp] theorem State.writeByte_stack (a : Nat) (b : Byte) : (s.writeByte a b).stack = s.stack := rfl
@[simp] theorem State.writeByte_dt (a : Nat) (b : Byte) : (s.writeByte a b).dt = s.dt := rfl
@[simp] theorem State.writeByte_st (a : Nat) (b : Byte) : (s.writeByte a b).st = s.st := rfl
@[simp] theorem State.writeByte_mem (a : Nat) (b : Byte) : (s.writeByte a b).mem = Memory.write s.fonts s.mem a b := rfl
@[simp] theorem State.writeByte_disp (a : Nat) (b : Byte) : (s.writeByte a b).disp = s.disp := rfl
@[simp] theorem State.writeByte_key (a : Nat) (b : Byte) : (s.writeByte a b).key = s.key := rfl
@[simp] theorem State.writeByte_drawn (a : Nat) (b : Byte) : (s.writeByte a b).drawn = s.drawn := rfl
@[simp] theorem State.writeByte_alive (a : Nat) (b : Byte) : (s.writeByte a b).alive = s.alive := rfl
@[simp] theorem State.writeByte_diag (a : Nat) (b : Byte) : (s.writeByte a b).diag = s.diag := rfl
@[simp] theorem State.writeByte_trigger (a : Nat) (b : Byte) : (s.writeByte a b).trigger = s.trigger := rfl
@[simp] theorem State.writeByte_draws (a : Nat) (b : Byte) : (s.writeByte a b).draws = s.draws := rfl
@[simp] theorem State.writeByte_picks (a : Nat) (b : Byte) : (s.writeByte a b).picks = s.picks := rfl
@[simp] theorem State.writeByte_fonts (a : Nat) (b : Byte) : (s.writeByte a b).fonts = s.fonts := rfl
@[simp] theorem State.writeByte_agenda (a : Nat) (b : Byte) : (s.writeByte a b).agenda = s.agenda := rfl
@[simp] theorem State.writeByte_getV (a : Nat) (b : Byte) (j : Nibble) : (s.writeByte a b).getV j = s.getV j := rfl
@[simp] theorem State.writeByte_keyDown (a : Nat) (b : Byte) (j : Nibble) : (s.writeByte a b).keyDown j = s.keyDown j := rfl

/-! ### `raise` -/

@[simp] theorem State.raise_v (c : Cause) (w : Word16) : (s.raise c w).v = s.v := rfl
@[simp] theorem State.raise_i (c : Cause) (w : Word16) : (s.raise c w).i = s.i := rfl
@[simp] theorem State.raise_pc (c : Cause) (w : Word16) : (s.raise c w).pc = s.pc := rfl
@[simp] theorem State.raise_sp (c : Cause) (w : Word16) : (s.raise c w).sp = s.sp := rfl
@[simp] theorem State.raise_stack (c : Cause) (w : Word16) : (s.raise c w).stack = s.stack := rfl
@[simp] theorem State.raise_dt (c : Cause) (w : Word16) : (s.raise c w).dt = s.dt := rfl
@[simp] theorem State.raise_st (c : Cause) (w : Word16) : (s.raise c w).st = s.st := rfl
@[simp] theorem State.raise_mem (c : Cause) (w : Word16) : (s.raise c w).mem = s.mem := rfl
@[simp] theorem State.raise_disp (c : Cause) (w : Word16) : (s.raise c w).disp = s.disp := rfl
@[simp] theorem State.raise_key (c : Cause) (w : Word16) : (s.raise c w).key = s.key := rfl
@[simp] theorem State.raise_drawn (c : Cause) (w : Word16) : (s.raise c w).drawn = s.drawn := rfl
@[simp] theorem State.raise_alive (c : Cause) (w : Word16) : (s.raise c w).alive = false := rfl
@[simp] theorem State.raise_diag (c : Cause) (w : Word16) : (s.raise c w).diag = some { cause := c, word := w, pc := s.pc } := rfl
@[simp] theorem State.raise_trigger (c : Cause) (w : Word16) : (s.raise c w).trigger = s.trigger := rfl
@[simp] theorem State.raise_draws (c : Cause) (w : Word16) : (s.raise c w).draws = s.draws := rfl
@[simp] theorem State.raise_picks (c : Cause) (w : Word16) : (s.raise c w).picks = s.picks := rfl
@[simp] theorem State.raise_fonts (c : Cause) (w : Word16) : (s.raise c w).fonts = s.fonts := rfl
@[simp] theorem State.raise_agenda (c : Cause) (w : Word16) : (s.raise c w).agenda = s.agenda := rfl
@[simp] theorem State.raise_getV (c : Cause) (w : Word16) (j : Nibble) : (s.raise c w).getV j = s.getV j := rfl
@[simp] theorem State.raise_readByte (c : Cause) (w : Word16) (n : Nat) : (s.raise c w).readByte n = s.readByte n := rfl
@[simp] theorem State.raise_keyDown (c : Cause) (w : Word16) (j : Nibble) : (s.raise c w).keyDown j = s.keyDown j := rfl

/-! ### `tick` -/

@[simp] theorem State.tick_v : (s.tick).v = s.v := rfl
@[simp] theorem State.tick_i : (s.tick).i = s.i := rfl
@[simp] theorem State.tick_pc : (s.tick).pc = s.pc := rfl
@[simp] theorem State.tick_sp : (s.tick).sp = s.sp := rfl
@[simp] theorem State.tick_stack : (s.tick).stack = s.stack := rfl
@[simp] theorem State.tick_dt : (s.tick).dt = decTimer s.dt := rfl
@[simp] theorem State.tick_st : (s.tick).st = decTimer s.st := rfl
@[simp] theorem State.tick_mem : (s.tick).mem = s.mem := rfl
@[simp] theorem State.tick_disp : (s.tick).disp = s.disp := rfl
@[simp] theorem State.tick_key : (s.tick).key = s.key := rfl
@[simp] theorem State.tick_drawn : (s.tick).drawn = s.drawn := rfl
@[simp] theorem State.tick_alive : (s.tick).alive = s.alive := rfl
@[simp] theorem State.tick_diag : (s.tick).diag = s.diag := rfl
@[simp] theorem State.tick_trigger : (s.tick).trigger = (s.trigger || s.st == 0x01#8) := rfl
@[simp] theorem State.tick_draws : (s.tick).draws = s.draws := rfl
@[simp] theorem State.tick_picks : (s.tick).picks = s.picks := rfl
@[simp] theorem State.tick_fonts : (s.tick).fonts = s.fonts := rfl
@[simp] theorem State.tick_agenda : (s.tick).agenda = s.agenda := rfl
@[simp] theorem State.tick_getV (j : Nibble) : (s.tick).getV j = s.getV j := rfl
@[simp] theorem State.tick_readByte (n : Nat) : (s.tick).readByte n = s.readByte n := rfl
@[simp] theorem State.tick_keyDown (j : Nibble) : (s.tick).keyDown j = s.keyDown j := rfl

/-! ### `clearTrigger` -/

@[simp] theorem State.clearTrigger_v : (s.clearTrigger).v = s.v := rfl
@[simp] theorem State.clearTrigger_i : (s.clearTrigger).i = s.i := rfl
@[simp] theorem State.clearTrigger_pc : (s.clearTrigger).pc = s.pc := rfl
@[simp] theorem State.clearTrigger_sp : (s.clearTrigger).sp = s.sp := rfl
@[simp] theorem State.clearTrigger_stack : (s.clearTrigger).stack = s.stack := rfl
@[simp] theorem State.clearTrigger_dt : (s.clearTrigger).dt = s.dt := rfl
@[simp] theorem State.clearTrigger_st : (s.clearTrigger).st = s.st := rfl
@[simp] theorem State.clearTrigger_mem : (s.clearTrigger).mem = s.mem := rfl
@[simp] theorem State.clearTrigger_disp : (s.clearTrigger).disp = s.disp := rfl
@[simp] theorem State.clearTrigger_key : (s.clearTrigger).key = s.key := rfl
@[simp] theorem State.clearTrigger_drawn : (s.clearTrigger).drawn = s.drawn := rfl
@[simp] theorem State.clearTrigger_alive : (s.clearTrigger).alive = s.alive := rfl
@[simp] theorem State.clearTrigger_diag : (s.clearTrigger).diag = s.diag := rfl
@[simp] theorem State.clearTrigger_trigger : (s.clearTrigger).trigger = false := rfl
@[simp] theorem State.clearTrigger_draws : (s.clearTrigger).draws = s.draws := rfl
@[simp] theorem State.clearTrigger_picks : (s.clearTrigger).picks = s.picks := rfl
@[simp] theorem State.clearTrigger_fonts : (s.clearTrigger).fonts = s.fonts := rfl
@[simp] theorem State.clearTrigger_agenda : (s.clearTrigger).agenda = s.agenda := rfl
@[simp] theorem State.clearTrigger_getV (j : Nibble) : (s.clearTrigger).getV j = s.getV j := rfl
@[simp] theorem State.clearTrigger_readByte (n : Nat) : (s.clearTrigger).readByte n = s.readByte n := rfl
@[simp] theorem State.clearTrigger_keyDown (j : Nibble) : (s.clearTrigger).keyDown j = s.keyDown j := rfl

/-! ### `setKey` -/

@[simp] theorem State.setKey_v (k : Nibble) (b : Bool) : (s.setKey k b).v = s.v := rfl
@[simp] theorem State.setKey_i (k : Nibble) (b : Bool) : (s.setKey k b).i = s.i := rfl
@[simp] theorem State.setKey_pc (k : Nibble) (b : Bool) : (s.setKey k b).pc = s.pc := rfl
@[simp] theorem State.setKey_sp (k : Nibble) (b : Bool) : (s.setKey k b).sp = s.sp := rfl
@[simp] theorem State.setKey_stack (k : Nibble) (b : Bool) : (s.setKey k b).stack = s.stack := rfl
@[simp] theorem State.setKey_dt (k : Nibble) (b : Bool) : (s.setKey k b).dt = s.dt := rfl
@[simp] theorem State.setKey_st (k : Nibble) (b : Bool) : (s.setKey k b).st = s.st := rfl
@[simp] theorem State.setKey_mem (k : Nibble) (b : Bool) : (s.setKey k b).mem = s.mem := rfl
@[simp] theorem State.setKey_disp (k : Nibble) (b : Bool) : (s.setKey k b).disp = s.disp := rfl
@[simp] theorem State.setKey_key (k : Nibble) (b : Bool) : (s.setKey k b).key = s.key.set k.toNat b k.isLt := rfl
@[simp] theorem State.setKey_drawn (k : Nibble) (b : Bool) : (s.setKey k b).drawn = s.drawn := rfl
@[simp] theorem State.setKey_alive (k : Nibble) (b : Bool) : (s.setKey k b).alive = s.alive := rfl
@[simp] theorem State.setKey_diag (k : Nibble) (b : Bool) : (s.setKey k b).diag = s.diag := rfl
@[simp] theorem State.setKey_trigger (k : Nibble) (b : Bool) : (s.setKey k b).trigger = s.trigger := rfl
@[simp] theorem State.setKey_draws (k : Nibble) (b : Bool) : (s.setKey k b).draws = s.draws := rfl
@[simp] theorem State.setKey_picks (k : Nibble) (b : Bool) : (s.setKey k b).picks = s.picks := rfl
@[simp] theorem State.setKey_fonts (k : Nibble) (b : Bool) : (s.setKey k b).fonts = s.fonts := rfl
@[simp] theorem State.setKey_agenda (k : Nibble) (b : Bool) : (s.setKey k b).agenda = s.agenda := rfl
@[simp] theorem State.setKey_getV (k : Nibble) (b : Bool) (j : Nibble) : (s.setKey k b).getV j = s.getV j := rfl
@[simp] theorem State.setKey_readByte (k : Nibble) (b : Bool) (n : Nat) : (s.setKey k b).readByte n = s.readByte n := rfl

/-! ### `setFlag` -/

@[simp] theorem State.setFlag_i (f : Bool) : (s.setFlag f).i = s.i := rfl
@[simp] theorem State.setFlag_pc (f : Bool) : (s.setFlag f).pc = s.pc := rfl
@[simp] theorem State.setFlag_sp (f : Bool) : (s.setFlag f).sp = s.sp := rfl
@[simp] theorem State.setFlag_stack (f : Bool) : (s.setFlag f).stack = s.stack := rfl
@[simp] theorem State.setFlag_dt (f : Bool) : (s.setFlag f).dt = s.dt := rfl
@[simp] theorem State.setFlag_st (f : Bool) : (s.setFlag f).st = s.st := rfl
@[simp] theorem State.setFlag_mem (f : Bool) : (s.setFlag f).mem = s.mem := rfl
@[simp] theorem State.setFlag_disp (f : Bool) : (s.setFlag f).disp = s.disp := rfl
@[simp] theorem State.setFlag_key (f : Bool) : (s.setFlag f).key = s.key := rfl
@[simp] theorem State.setFlag_drawn (f : Bool) : (s.setFlag f).drawn = s.drawn := rfl
@[simp] theorem State.setFlag_alive (f : Bool) : (s.setFlag f).alive = s.alive := rfl
@[simp] theorem State.setFlag_diag (f : Bool) : (s.setFlag f).diag = s.diag := rfl
@[simp] theorem State.setFlag_trigger (f : Bool) : (s.setFlag f).trigger = s.trigger := rfl
@[simp] theorem State.setFlag_draws (f : Bool) : (s.setFlag f).draws = s.draws := rfl
@[simp] theorem State.setFlag_picks (f : Bool) : (s.setFlag f).picks = s.picks := rfl
@[simp] theorem State.setFlag_fonts (f : Bool) : (s.setFlag f).fonts = s.fonts := rfl
@[simp] theorem State.setFlag_agenda (f : Bool) : (s.setFlag f).agenda = s.agenda := rfl
@[simp] theorem State.setFlag_readByte (f : Bool) (n : Nat) : (s.setFlag f).readByte n = s.readByte n := rfl
@[simp] theorem State.setFlag_keyDown (f : Bool) (j : Nibble) : (s.setFlag f).keyDown j = s.keyDown j := rfl

/-! ### `setResultFlag` -/

@[simp] theorem State.setResultFlag_i (x : Nibble) (r : Byte) (f : Bool) : (s.setResultFlag x r f).i = s.i := rfl
@[simp] theorem State.setResultFlag_pc (x : Nibble) (r : Byte) (f : Bool) : (s.setResultFlag x r f).pc = s.pc := rfl
@[simp] theorem State.setResultFlag_sp (x : Nibble) (r : Byte) (f : Bool) : (s.setResultFlag x r f).sp = s.sp := rfl
@[simp] theorem State.setResultFlag_stack (x : Nibble) (r : Byte) (f : Bool) : (s.setResultFlag x r f).stack = s.stack := rfl
@[simp] theorem State.setResultFlag_dt (x : Nibble) (r : Byte) (f : Bool) : (s.setResultFlag x r f).dt = s.dt := rfl
@[simp] theorem State.setResultFlag_st (x : Nibble) (r : Byte) (f : Bool) : (s.setResultFlag x r f).st = s.st := rfl
@[simp] theorem State.setResultFlag_mem (x : Nibble) (r : Byte) (f : Bool) : (s.setResultFlag x r f).mem = s.mem := rfl
@[simp] theorem State.setResultFlag_disp (x : Nibble) (r : Byte) (f : Bool) : (s.setResultFlag x r f).disp = s.disp := rfl
@[simp] theorem State.setResultFlag_key (x : Nibble) (r : Byte) (f : Bool) : (s.setResultFlag x r f).key = s.key := rfl
@[simp] theorem State.setResultFlag_drawn (x : Nibble) (r : Byte) (f : Bool) : (s.setResultFlag x r f).drawn = s.drawn := rfl
@[simp] theorem State.setResultFlag_alive (x : Nibble) (r : Byte) (f : Bool) : (s.setResultFlag x r f).alive = s.alive := rfl
@[simp] theorem State.setResultFlag_diag (x : Nibble) (r : Byte) (f : Bool) : (s.setResultFlag x r f).diag = s.diag := rfl
@[simp] theorem State.setResultFlag_trigger (x : Nibble) (r : Byte) (f : Bool) : (s.setResultFlag x r f).trigger = s.trigger := rfl
@[simp] theorem State.setResultFlag_draws (x : Nibble) (r : Byte) (f : Bool) : (s.setResultFlag x r f).draws = s.draws := rfl
@[simp] theorem State.setResultFlag_picks (x : Nibble) (r : Byte) (f : Bool) : (s.setResultFlag x r f).picks = s.picks := rfl
@[simp] theorem State.setResultFlag_fonts (x : Nibble) (r : Byte) (f : Bool) : (s.setResultFlag x r f).fonts = s.fonts := rfl
@[simp] theorem State.setResultFlag_agenda (x : Nibble) (r : Byte) (f : Bool) : (s.setResultFlag x r f).agenda = s.agenda := rfl
@[simp] theorem State.setResultFlag_readByte (x : Nibble) (r : Byte) (f : Bool) (n : Nat) : (s.setResultFlag x r f).readByte n = s.readByte n := rfl
@[simp] theorem State.setResultFlag_keyDown (x : Nibble) (r : Byte) (f : Bool) (j : Nibble) : (s.setResultFlag x r f).keyDown j = s.keyDown j := rfl

end Sys2Proof.Machine
end

