-- ==== Sys2Proof/Laws/Registers.lean ====
section
/-!
SUPPORT. What the register, flag, call stack, skip, key and free-value operations do, each said once.
-/

namespace Sys2Proof.Machine

@[simp] theorem addr16_toNat (a : Nat) : (addr16 a).toNat = a % 4096 := by
  simp only [addr16, BitVec.toNat_ofNat]; omega

theorem addr16_lt (a : Nat) : (addr16 a).toNat < 4096 := by
  rw [addr16_toNat]; exact Nat.mod_lt _ (by decide)

/-- A register reads what the last write to it stored, and no other write changes it (10_state.md R21). -/
theorem State.getV_setV (s : State) (x k : Nibble) (b : Byte) :
    (s.setV x b).getV k = if k = x then b else s.getV k := by
  simp only [State.getV, State.setV_v, Vector.getElem_set, ← BitVec.toNat_inj, eq_comm]

/-- A key reads what the host last wrote, and no other write changes it (10_state.md R43). -/
theorem State.keyDown_setKey (s : State) (x k : Nibble) (b : Bool) :
    (s.setKey x b).keyDown k = if k = x then b else s.keyDown k := by
  simp only [State.keyDown, State.setKey_key, Vector.getElem_set, ← BitVec.toNat_inj, eq_comm]

/-- What an action of the host does to a key (60_exceptions.md R192). -/
theorem State.keyDown_hostEvent (s : State) (e : HostEvent) (j : Nibble) :
    (s.hostEvent e).keyDown j =
      match e with
      | .pressKey k => if j = k then true else s.keyDown j
      | .releaseKey k => if j = k then false else s.keyDown j
      | .clearDrawn => s.keyDown j := by
  cases e <;> simp only [State.hostEvent, State.keyDown_setKey]
  rfl

/-- A flag is exactly 0 or 1, and 1 exactly when the condition holds (10_state.md R28). -/
theorem flagByte_cases (f : Bool) : flagByte f = 0x00#8 ∨ flagByte f = 0x01#8 := by cases f <;> simp [flagByte]

@[simp] theorem flagByte_eq_one (f : Bool) : flagByte f = 0x01#8 ↔ f = true := by cases f <;> decide

theorem flagByte_toNat (f : Bool) : (flagByte f).toNat = if f then 1 else 0 := by cases f <;> rfl

/-- Result first, flag last: `VF` is the flag, then `V[X]` the result, the rest unchanged (10_state.md R29). -/
theorem State.getV_setResultFlag (s : State) (x k : Nibble) (r : Byte) (f : Bool) :
    (s.setResultFlag x r f).getV k = if k = 0xF#4 then flagByte f else if k = x then r else s.getV k := by
  simp only [State.setResultFlag, State.setFlag, State.getV_setV, regVF]

/-- A logic operation writes `V[X]` only (10_state.md R27; D11, log 20). -/
@[simp] theorem State.setLogic_eq (s : State) (x : Nibble) (r : Byte) : s.setLogic x r = s.setV x r := rfl

/-- A fault leaves `pc` (60_exceptions.md R174; D7, log 17). -/
@[simp] theorem faultPc_eq (pc : Word16) : faultPc pc = pc := rfl

/-- Stack overflow and underflow are the fault entry of every fault (60_exceptions.md R173; D6, log 16). -/
@[simp] theorem State.stackPolicy_eq (s : State) (c : Cause) (w : Word16) : s.stackPolicy c w = s.raise c w := rfl

/-- A conditional skip sets `pc` and nothing else (10_state.md R25). -/
theorem State.skipIf_eq (s : State) (c : Bool) :
    s.skipIf c = { s with pc := addr16 (s.pc.toNat + if c then 4 else 2) } := by
  cases c <;> rfl

theorem State.push_of_lt (s : State) (ret : Nat) (h : s.sp.val < 16) :
    s.push ret = some { s with stack := s.stack.set s.sp.val (addr16 ret) h, sp := ⟨s.sp.val + 1, by omega⟩ } :=
  dif_pos h

theorem State.push_of_full (s : State) (ret : Nat) (h : s.sp.val = 16) : s.push ret = none :=
  dif_neg (by omega)

theorem State.pop_of_pos (s : State) (h : 0 < s.sp.val) :
    s.pop = some (s.stack[s.sp.val - 1]'(by omega), { s with sp := ⟨s.sp.val - 1, by omega⟩ }) :=
  dif_pos h

theorem State.pop_of_empty (s : State) (h : s.sp.val = 0) : s.pop = none :=
  dif_neg (by omega)

/-- The decrement with its floor at 0 (60_exceptions.md R184). -/
@[simp] theorem decTimer_toNat (t : Byte) : (decTimer t).toNat = t.toNat - 1 := by
  have ht := t.isLt
  unfold decTimer
  split
  · next h => simp [h]
  · next h =>
    have : t.toNat ≠ 0 := fun h0 => h (BitVec.eq_of_toNat_eq (by simpa using h0))
    simp only [BitVec.toNat_sub, BitVec.toNat_ofNat]; omega

/-- The low 4 bits of a byte (41_skips.md R114). -/
theorem lowNibble_eq (b : Byte) : lowNibble b = BitVec.ofNat 4 (b.toNat % 16) := by
  apply BitVec.eq_of_toNat_eq
  simp [lowNibble]

@[simp] theorem lowNibble_toNat (b : Byte) : (lowNibble b).toNat = b.toNat % 16 := by
  simp [lowNibble]

theorem mem_allKeys (k : Nibble) : k ∈ allKeys := by
  simp only [allKeys, List.mem_map, List.mem_range]
  exact ⟨k.toNat, k.isLt, by simp⟩

@[simp] theorem State.mem_pressedKeys (s : State) (k : Nibble) : k ∈ s.pressedKeys ↔ s.keyDown k = true := by
  simp [State.pressedKeys, mem_allKeys]

/-- `KEY_SELECT` answers none exactly when no key is pressed (45_timers_keys.md R161). -/
theorem keySelect_eq_none (n : Nat) (ks : List Nibble) : keySelect n ks = none ↔ ks = [] := by
  match ks with
  | [] => simp [keySelect]
  | [_] => simp [keySelect]
  | _ :: _ :: _ => simp [keySelect]

/-- What `KEY_SELECT` answers is one of the pressed keys (45_timers_keys.md R161). -/
theorem keySelect_mem {n : Nat} {ks : List Nibble} {k : Nibble} (h : keySelect n ks = some k) : k ∈ ks := by
  match ks with
  | [] => simp [keySelect] at h
  | [_] => simp_all [keySelect]
  | a :: b :: t =>
    simp only [keySelect, Option.some.injEq] at h
    rw [← h, List.getD_eq_getElem _ _ (Nat.mod_lt _ (by simp))]
    exact List.getElem_mem _

end Sys2Proof.Machine
end

