-- ==== Sys2Proof/Laws/Display.lean ====
section
/-!
SUPPORT. The display: a cell after a write, and what drawing a row and a sprite does to every cell and to the collision.
-/

namespace Sys2Proof.Machine

/-- A cell reads what was last written to it, and no other write changes it (10_state.md R42). -/
theorem cell_setCell (d : Display) (x x' : Fin 64) (y y' : Fin 32) (b : Bool) :
    cell (setCell d x y b) x' y' = if x' = x ∧ y' = y then b else cell d x' y' := by
  simp only [cell, setCell, Fin.getElem_fin, Vector.getElem_set, Fin.ext_iff]
  by_cases hy : y.val = y'.val
  · by_cases hx : x.val = x'.val
    · simp [hx, hy]
    · simp [hx, hy, Ne.symm hx]
  · simp [hy, Ne.symm hy]

@[simp] theorem cell_blankDisplay (x : Fin 64) (y : Fin 32) : cell blankDisplay x y = false := by
  simp [cell, blankDisplay]

/-- Two displays with the same cells are the same (10_state.md R42). -/
theorem display_ext (d e : Display) (h : ∀ x y, cell d x y = cell e x y) : d = e := by
  apply Vector.ext; intro y hy
  apply Vector.ext; intro x hx
  exact h ⟨x, hx⟩ ⟨y, hy⟩

/-- The sprite column that lies over display column `x`, the wrapped distance from the origin. -/
def spriteColumn (x0 : Nat) (x : Fin 64) : Nat := (x.val + 64 - x0 % 64) % 64

/-- The sprite row that lies over display row `y`. -/
def spriteRow (y0 : Nat) (y : Fin 32) : Nat := (y.val + 32 - y0 % 32) % 32

theorem spriteColumn_eq {x0 col : Nat} (h : col < 64) (x : Fin 64) : x = wrapColumn (x0 + col) ↔ spriteColumn x0 x = col := by
  have := x.isLt
  simp only [wrapColumn, Fin.ext_iff, spriteColumn]; omega

theorem spriteRow_eq {y0 r : Nat} (h : r < 32) (y : Fin 32) : y = wrapRow (y0 + r) ↔ spriteRow y0 y = r := by
  have := y.isLt
  simp only [wrapRow, Fin.ext_iff, spriteRow]; omega

theorem spriteCovers_eq (s : State) (x0 y0 n : Nat) (x : Fin 64) (y : Fin 32) :
    spriteCovers s x0 y0 n x y = (decide (spriteRow y0 y < n) && decide (spriteColumn x0 x < 8) &&
      (s.readByte (s.i.toNat + spriteRow y0 y)).getLsbD (7 - spriteColumn x0 x)) := rfl

/-- Drawing the first `n` columns flips the cells of the row that a set bit lies over. -/
theorem cell_drawColumns (x0 : Nat) (py : Fin 32) (b : Byte) (n : Nat) (hn : n ≤ 8) (acc : Display × Bool)
    (x : Fin 64) (y : Fin 32) :
    cell (drawColumns x0 py b n acc).1 x y =
      Bool.xor (cell acc.1 x y)
        (decide (y = py) && decide (spriteColumn x0 x < n) && b.getLsbD (7 - spriteColumn x0 x)) := by
  induction n with
  | zero => simp [drawColumns]
  | succ n ih =>
    have ih := ih (by omega)
    simp only [drawColumns]
    by_cases hx : spriteColumn x0 x = n
    · have hx' := (spriteColumn_eq (show n < 64 by omega) x).2 hx
      split
      · next hb =>
        simp only [drawPixel, cell_setCell, ← hx', true_and]
        by_cases hy : y = py
        · subst hy; simp [ih, hx, hb]
        · simp [ih, hy]
      · next hb => rw [ih]; simp [hx, hb]
    · have hx' : ¬ x = wrapColumn (x0 + n) := fun e => hx ((spriteColumn_eq (by omega) x).1 e)
      have hlt : (spriteColumn x0 x < n + 1) = (spriteColumn x0 x < n) := by apply propext; omega
      split
      · simp only [drawPixel, cell_setCell, hx', false_and, if_false, ih, hlt]
      · simp only [ih, hlt]

/-- Drawing the first `n` columns collides exactly where a set bit lies over a cell that is on. -/
theorem drawColumns_collides (x0 : Nat) (py : Fin 32) (b : Byte) (n : Nat) (hn : n ≤ 8) (acc : Display × Bool) :
    (drawColumns x0 py b n acc).2 = true ↔
      acc.2 = true ∨ ∃ x, cell acc.1 x py = true ∧ spriteColumn x0 x < n ∧ b.getLsbD (7 - spriteColumn x0 x) = true := by
  induction n with
  | zero => simp [drawColumns]
  | succ n ih =>
    have ih := ih (by omega)
    have hcol : spriteColumn x0 (wrapColumn (x0 + n)) = n := (spriteColumn_eq (by omega) _).1 rfl
    have hcell : cell (drawColumns x0 py b n acc).1 (wrapColumn (x0 + n)) py = cell acc.1 (wrapColumn (x0 + n)) py := by
      rw [cell_drawColumns _ _ _ _ (by omega)]; simp [hcol]
    simp only [drawColumns]
    split
    · next hb =>
      simp only [drawPixel, Bool.or_eq_true, ih, hcell]
      constructor
      · rintro ((h | ⟨x, h⟩) | h)
        · exact .inl h
        · exact .inr ⟨x, h.1, by omega, h.2.2⟩
        · exact .inr ⟨_, h, by omega, by rw [hcol]; exact hb⟩
      · rintro (h | ⟨x, h, hlt, hbit⟩)
        · exact .inl (.inl h)
        · by_cases hx : spriteColumn x0 x = n
          · exact .inr ((spriteColumn_eq (by omega) x).2 hx ▸ h)
          · exact .inl (.inr ⟨x, h, by omega, hbit⟩)
    · next hb =>
      rw [ih]
      constructor
      · rintro (h | ⟨x, h⟩)
        · exact .inl h
        · exact .inr ⟨x, h.1, by omega, h.2.2⟩
      · rintro (h | ⟨x, h, hlt, hbit⟩)
        · exact .inl h
        · refine .inr ⟨x, h, ?_, hbit⟩
          by_contra hge
          have hx : spriteColumn x0 x = n := by omega
          rw [hx] at hbit; exact hb hbit

/-- Drawing `n` rows flips exactly the cells the sprite covers (44_display.md R151 to R153). -/
theorem cell_drawRows (s : State) (x0 y0 n : Nat) (hn : n ≤ 32) (acc : Display × Bool) (x : Fin 64) (y : Fin 32) :
    cell (drawRows s x0 y0 n acc).1 x y = Bool.xor (cell acc.1 x y) (spriteCovers s x0 y0 n x y) := by
  induction n with
  | zero => simp [drawRows, spriteCovers_eq]
  | succ n ih =>
    have ih := ih (by omega)
    simp only [drawRows]
    rw [cell_drawColumns _ _ _ _ (le_refl 8), ih, spriteCovers_eq, spriteCovers_eq]
    by_cases hy : spriteRow y0 y = n
    · have hy' := (spriteRow_eq (show n < 32 by omega) y).2 hy
      simp [hy, ← hy']
    · have hy' : ¬ y = wrapRow (y0 + n) := fun e => hy ((spriteRow_eq (by omega) y).1 e)
      have hlt : (spriteRow y0 y < n + 1) = (spriteRow y0 y < n) := by apply propext; omega
      simp [hy', hlt]

/-- Drawing `n` rows collides exactly where the sprite covers a cell that is on (44_display.md R151, R155). -/
theorem drawRows_collides (s : State) (x0 y0 n : Nat) (hn : n ≤ 32) (acc : Display × Bool) :
    (drawRows s x0 y0 n acc).2 = true ↔
      acc.2 = true ∨ ∃ x y, cell acc.1 x y = true ∧ spriteCovers s x0 y0 n x y = true := by
  induction n with
  | zero => simp [drawRows, spriteCovers_eq]
  | succ n ih =>
    have ih := ih (by omega)
    have hrow : spriteRow y0 (wrapRow (y0 + n)) = n := (spriteRow_eq (by omega) _).1 rfl
    simp only [drawRows]
    rw [drawColumns_collides _ _ _ _ (le_refl 8), ih]
    simp only [cell_drawRows s x0 y0 n (by omega), spriteCovers_eq, Bool.and_eq_true, decide_eq_true_eq, hrow,
      Nat.lt_irrefl, decide_false, Bool.false_and, Bool.xor_false]
    constructor
    · rintro ((h | ⟨x, y, h, ⟨h1, h2⟩, h3⟩) | ⟨x, h, h2, h3⟩)
      · exact .inl h
      · exact .inr ⟨x, y, h, ⟨by omega, h2⟩, h3⟩
      · exact .inr ⟨x, wrapRow (y0 + n), h, ⟨by omega, h2⟩, by rw [hrow]; exact h3⟩
    · rintro (h | ⟨x, y, h, ⟨h1, h2⟩, h3⟩)
      · exact .inl (.inl h)
      · by_cases hy : spriteRow y0 y = n
        · have hy' := (spriteRow_eq (show n < 32 by omega) y).2 hy
          exact .inr ⟨x, hy' ▸ h, h2, hy ▸ h3⟩
        · exact .inl (.inr ⟨x, y, h, ⟨by omega, h2⟩, h3⟩)

end Sys2Proof.Machine
end

