-- ==== Sys2Proof/Laws/Memory.lean ====
section
/-!
SUPPORT. Memory: a read after a write, the canonical form kept by every operation, and what the block moves and the loader
do.
-/

namespace Sys2Proof.Machine

theorem Memory.lookup_place (a b : Nat) (v : Byte) (m : Memory) (h : ∀ c ∈ m, c.1 ≠ a) :
    Memory.lookup (Memory.place a v m) b = if a = b then some v else Memory.lookup m b := by
  induction m with
  | nil => simp [Memory.place, Memory.lookup]
  | cons c m ih =>
    obtain ⟨k, w⟩ := c
    have hk : k ≠ a := h (k, w) (by simp)
    have ih := ih (fun c hc => h c (by simp [hc]))
    simp only [Memory.place]
    split
    · simp [Memory.lookup]
    · simp only [Memory.lookup, ih]
      by_cases hb : k = b
      · subst hb; simp [Ne.symm hk]
      · simp [hb]

theorem Memory.lookup_filter (a b : Nat) (m : Memory) :
    Memory.lookup (m.filter (fun c => c.1 != a)) b = if a = b then none else Memory.lookup m b := by
  induction m with
  | nil => simp [Memory.lookup]
  | cons c m ih =>
    obtain ⟨k, w⟩ := c
    by_cases hk : k = a
    · subst hk
      by_cases hb : k = b
      · subst hb; simp [ih]
      · simp [Memory.lookup, ih, hb]
    · by_cases hb : k = b
      · subst hb; simp [Memory.lookup, hk, Ne.symm hk]
      · simp [Memory.lookup, ih, hk, hb]

/-- A read gives the value last written to the address, and a write leaves every other address alone
(20_memory.md R50, R62). -/
theorem Memory.read_write (f : Fonts) (m : Memory) (a b : Nat) (v : Byte) :
    Memory.read f (Memory.write f m a v) b = if b % 4096 = a % 4096 then v else Memory.read f m b := by
  simp only [Memory.read, Memory.write]
  split
  · next hv =>
    rw [Memory.lookup_filter]
    by_cases h : a % 4096 = b % 4096
    · simp [h, hv]
    · simp [h, Ne.symm h]
  · rw [Memory.lookup_place _ _ _ _ (by simp), Memory.lookup_filter]
    by_cases h : a % 4096 = b % 4096
    · simp [h]
    · simp [h, Ne.symm h]

theorem Memory.read_mod (f : Fonts) (m : Memory) (a : Nat) : Memory.read f m (a % 4096) = Memory.read f m a := by
  simp [Memory.read]

/-- A read after a write to the machine's memory. -/
theorem State.readByte_writeByte (s : State) (a b : Nat) (v : Byte) :
    (s.writeByte a v).readByte b = if b % 4096 = a % 4096 then v else s.readByte b :=
  Memory.read_write s.fonts s.mem a b v

theorem State.readByte_mod (s : State) (a : Nat) : s.readByte (a % 4096) = s.readByte a :=
  Memory.read_mod s.fonts s.mem a

/-! ### The canonical form -/

theorem Memory.mem_place (a : Nat) (v : Byte) (m : Memory) (c : Host.Cell) :
    c ∈ Memory.place a v m ↔ c = (a, v) ∨ c ∈ m := by
  induction m with
  | nil => simp [Memory.place]
  | cons d m ih =>
    simp only [Memory.place]
    split
    · simp
    · simp only [List.mem_cons, ih]; tauto

theorem Memory.pairwise_place (a : Nat) (v : Byte) (m : Memory) (hm : m.Pairwise (fun c d => c.1 < d.1))
    (ha : ∀ c ∈ m, c.1 ≠ a) : (Memory.place a v m).Pairwise (fun c d => c.1 < d.1) := by
  induction m with
  | nil => simp [Memory.place]
  | cons d m ih =>
    obtain ⟨hd, hm'⟩ := List.pairwise_cons.1 hm
    simp only [Memory.place]
    split
    · next h =>
      refine List.pairwise_cons.2 ⟨fun c hc => ?_, hm⟩
      rcases List.mem_cons.1 hc with rfl | hc
      · exact h
      · exact lt_trans h (hd c hc)
    · next h =>
      refine List.pairwise_cons.2 ⟨fun c hc => ?_, ih hm' (fun c hc => ha c (by simp [hc]))⟩
      rcases (Memory.mem_place a v m c).1 hc with rfl | hc
      · have := ha d (by simp)
        omega
      · exact hd c hc

/-- A write keeps the canonical form. -/
theorem Memory.wf_write (f : Fonts) (m : Memory) (a : Nat) (v : Byte) (h : Memory.wf f m) :
    Memory.wf f (Memory.write f m a v) := by
  obtain ⟨hs, hc⟩ := h
  have hfs : (m.filter (fun c => c.1 != a % 4096)).Pairwise (fun c d => c.1 < d.1) := hs.filter _
  have hfc : ∀ c ∈ m.filter (fun c => c.1 != a % 4096), c.1 < 4096 ∧ c.2 ≠ Memory.unlisted f c.1 :=
    fun c hm => hc c (List.mem_of_mem_filter hm)
  simp only [Memory.write]
  split
  · exact ⟨hfs, hfc⟩
  · next hv =>
    refine ⟨Memory.pairwise_place _ _ _ hfs (by simp), fun c hm => ?_⟩
    rcases (Memory.mem_place _ _ _ c).1 hm with rfl | hm
    · exact ⟨Nat.mod_lt _ (by decide), hv⟩
    · exact hfc c hm

theorem Memory.wf_nil (f : Fonts) : Memory.wf f [] := ⟨List.Pairwise.nil, by simp⟩

/-- Two memories in canonical form that read the same at every address are the same data (log 27). -/
theorem Memory.eq_of_read_eq {f : Fonts} {m n : Memory} (hm : Memory.wf f m) (hn : Memory.wf f n)
    (h : ∀ a, Memory.read f m a = Memory.read f n a) : m = n := by
  have key : ∀ (m : Memory), Memory.wf f m → ∀ c, c ∈ m ↔ c.1 < 4096 ∧ Memory.lookup m c.1 = some c.2 := by
    intro m hm
    induction m with
    | nil => simp [Memory.lookup]
    | cons d m ih =>
      obtain ⟨hs, hc⟩ := hm
      obtain ⟨hd, hs'⟩ := List.pairwise_cons.1 hs
      have ih := ih ⟨hs', fun c hc' => hc c (by simp [hc'])⟩
      rintro ⟨k, v⟩
      obtain ⟨dk, dv⟩ := d
      have hd0 := (hc (dk, dv) (by simp)).1
      simp only [List.mem_cons, Memory.lookup, Prod.mk.injEq]
      by_cases e : dk = k
      · subst e
        simp only [true_and, if_true, Option.some.injEq]
        constructor
        · rintro (h | h)
          · exact ⟨hd0, h.symm⟩
          · have := hd _ h; simp at this
        · rintro ⟨_, h⟩; exact .inl h.symm
      · simp only [e, Ne.symm e, false_and, false_or, if_false]
        rw [ih]
  have notdef : ∀ (m : Memory), Memory.wf f m → ∀ k, Memory.lookup m k ≠ some (Memory.unlisted f k) ∨ 4096 ≤ k := by
    intro m hm k
    by_contra hcon
    obtain ⟨h1, h2⟩ := not_or.1 hcon
    exact (hm.2 _ ((key m hm (k, Memory.unlisted f k)).2 ⟨by simpa using h2, not_not.1 h1⟩)).2 rfl
  have same : ∀ k, k < 4096 → Memory.lookup m k = Memory.lookup n k := by
    intro k hk
    have hr := h k
    simp only [Memory.read, Nat.mod_eq_of_lt hk] at hr
    have h1 := notdef m hm k
    have h2 := notdef n hn k
    cases e1 : Memory.lookup m k <;> cases e2 : Memory.lookup n k <;> simp_all <;> omega
  have hmem : ∀ c, c ∈ m ↔ c ∈ n := by
    intro c
    rw [key m hm, key n hn]
    constructor <;> rintro ⟨h1, h2⟩
    · exact ⟨h1, by rw [← same _ h1]; exact h2⟩
    · exact ⟨h1, by rw [same _ h1]; exact h2⟩
  have p1 : m.Perm n := by
    have nd : ∀ l : Memory, l.Pairwise (fun c d => c.1 < d.1) → l.Nodup :=
      fun l hl => hl.imp (fun {a b} hab e => by subst e; exact lt_irrefl _ hab)
    exact (List.perm_ext_iff_of_nodup (nd _ hm.1) (nd _ hn.1)).2 hmem
  exact p1.eq_of_pairwise (fun a b _ _ h1 h2 => absurd h1 (by omega)) hm.1 hn.1

/-! ### The block moves and the loader -/

/-- Storing registers changes memory only. -/
theorem State.storeRegs_eq (n : Nat) (s : State) : State.storeRegs n s = { s with mem := (State.storeRegs n s).mem } := by
  induction n with
  | zero => rfl
  | succ n ih =>
    rw [State.storeRegs]
    generalize State.storeRegs n s = t at ih
    rw [ih]; rfl

@[simp] theorem State.storeRegs_fonts (n : Nat) (s : State) : (State.storeRegs n s).fonts = s.fonts := by
  rw [State.storeRegs_eq]

@[simp] theorem State.storeRegs_i (n : Nat) (s : State) : (State.storeRegs n s).i = s.i := by
  rw [State.storeRegs_eq]

@[simp] theorem State.storeRegs_getV (n : Nat) (s : State) (k : Nibble) :
    (State.storeRegs n s).getV k = s.getV k := by
  rw [State.storeRegs_eq]; rfl

/-- The byte at `I + j` is `V[j]` after at most 16 registers are stored, since their addresses differ
(43_index_memory.md R144, 20_memory.md R58). -/
theorem State.readByte_storeRegs (n : Nat) (hn : n ≤ 16) (s : State) (j : Nat) (hj : j < n) :
    (State.storeRegs n s).readByte (s.i.toNat + j) = s.getV (BitVec.ofNat 4 j) := by
  induction n with
  | zero => omega
  | succ n ih =>
    rw [State.storeRegs, State.readByte_writeByte, State.storeRegs_i, State.storeRegs_getV]
    by_cases h : j = n
    · subst h; simp
    · rw [if_neg (by omega), ih (by omega) (by omega)]

/-- Every byte outside `I..I + n - 1` is as before. -/
theorem State.readByte_storeRegs_other (n : Nat) (s : State) (a : Nat)
    (ha : ∀ j, j < n → a % 4096 ≠ (s.i.toNat + j) % 4096) :
    (State.storeRegs n s).readByte a = s.readByte a := by
  induction n with
  | zero => rfl
  | succ n ih =>
    rw [State.storeRegs, State.readByte_writeByte, State.storeRegs_i, if_neg (ha n (by omega)),
      ih (fun j hj => ha j (by omega))]

theorem State.wf_storeRegs (n : Nat) (s : State) (h : Memory.wf s.fonts s.mem) :
    Memory.wf s.fonts (State.storeRegs n s).mem := by
  induction n with
  | zero => exact h
  | succ n ih =>
    rw [State.storeRegs]
    simpa using Memory.wf_write s.fonts _ _ _ ih

/-- Loading registers changes the general registers only. -/
theorem State.loadRegs_eq (n : Nat) (s : State) : State.loadRegs n s = { s with v := (State.loadRegs n s).v } := by
  induction n with
  | zero => rfl
  | succ n ih =>
    rw [State.loadRegs]
    generalize State.loadRegs n s = t at ih
    rw [ih]; rfl

/-- `V[k]` is the byte at `I + k` when it is among the first `n`, else as before (43_index_memory.md R145). -/
theorem State.getV_loadRegs (n : Nat) (hn : n ≤ 16) (s : State) (k : Nibble) :
    (State.loadRegs n s).getV k = if k.toNat < n then s.readByte (s.i.toNat + k.toNat) else s.getV k := by
  induction n with
  | zero => simp [State.loadRegs]
  | succ n ih =>
    have hr : (State.loadRegs n s).readByte = s.readByte := by rw [State.loadRegs_eq]; rfl
    have hi : (State.loadRegs n s).i = s.i := by rw [State.loadRegs_eq]
    have hk : k = BitVec.ofNat 4 n ↔ k.toNat = n := by
      rw [← BitVec.toNat_inj, BitVec.toNat_ofNat, Nat.mod_eq_of_lt (by omega)]
    rw [State.loadRegs, State.getV_setV, hr, hi, ih (by omega)]
    by_cases h : k.toNat = n
    · rw [if_pos (hk.2 h), if_pos (by omega), h]
    · rw [if_neg (fun e => h (hk.1 e))]
      by_cases h' : k.toNat < n
      · rw [if_pos h', if_pos (by omega)]
      · rw [if_neg h', if_neg (by omega)]

/-- The loader changes memory only (70_reset_and_hazards.md R203). -/
theorem State.loadBytes_mem_only (bytes : List Byte) (offset : Nat) (s : State) :
    ∃ m, State.loadBytes bytes offset s = { s with mem := m } := by
  induction bytes generalizing offset s with
  | nil => exact ⟨s.mem, rfl⟩
  | cons b bytes ih =>
    obtain ⟨m, hm⟩ := ih (offset + 1) (s.writeByte offset b)
    exact ⟨m, hm⟩

theorem State.wf_loadBytes (bytes : List Byte) (offset : Nat) (s : State) (h : Memory.wf s.fonts s.mem) :
    Memory.wf s.fonts (State.loadBytes bytes offset s).mem := by
  induction bytes generalizing offset s with
  | nil => exact h
  | cons b bytes ih => exact ih (offset + 1) (s.writeByte offset b) (Memory.wf_write _ _ _ _ h)

end Sys2Proof.Machine
end

