-- ==== Sys2Proof/Laws/Exec.lean ====
section
/-!
SUPPORT. What any instruction can do, said once: it completes, it leaves the host's state and the trigger alone, and it
changes the run's status only by raising a fault.
-/

namespace Sys2Proof.Machine

/-- The state after an instruction. Every instruction has one, so claims over all instructions are about this function. -/
theorem exec_completes (i : Instr) (s : State) : ∃ t, exec i s = .next t := by
  cases i <;> try exact ⟨_, rfl⟩
  case ret => simp only [exec, execRet]; cases s.pop <;> exact ⟨_, rfl⟩
  case call => simp only [exec, execCall]; cases s.push _ <;> exact ⟨_, rfl⟩
  case ldVxK => simp only [exec, execLdVxK]; cases keySelect _ _ <;> exact ⟨_, rfl⟩

/-- What no instruction changes: the keys, the agenda, the fonts and the trigger. -/
def KeepsOutside (s t : State) : Prop :=
  t.key = s.key ∧ t.agenda = s.agenda ∧ t.fonts = s.fonts ∧ t.trigger = s.trigger

theorem exec_call_of_room (nnn : Addr12) (s : State) (h : s.sp.val < 16) : exec (.call nnn) s = .next
    { s with
      stack := s.stack.set s.sp.val (addr16 (s.pc.toNat + 2)) h
      sp := ⟨s.sp.val + 1, by omega⟩
      pc := addr16 nnn.toNat } := by
  simp only [exec, execCall, State.push_of_lt s _ h]; rfl

theorem exec_call_of_full (nnn : Addr12) (s : State) (h : s.sp.val = 16) :
    exec (.call nnn) s = .next (s.raise .stackOverflow (encode (.call nnn))) := by
  simp only [exec, execCall, State.push_of_full s _ h, State.stackPolicy_eq]

theorem exec_ret_of_used (s : State) (h : 0 < s.sp.val) : exec .ret s = .next
    { s with sp := ⟨s.sp.val - 1, by omega⟩, pc := addr16 (s.stack[s.sp.val - 1]'(by omega)).toNat } := by
  simp only [exec, execRet, State.pop_of_pos s h]; rfl

theorem exec_ret_of_empty (s : State) (h : s.sp.val = 0) :
    exec .ret s = .next (s.raise .stackUnderflow (encode .ret)) := by
  simp only [exec, execRet, State.pop_of_empty s h, State.stackPolicy_eq]

/-- `RET` either raises or moves `sp` and `pc` (40_flow.md R101). -/
theorem exec_ret_cases {s t : State} (h : exec .ret s = .next t) :
    (s.sp.val = 0 ∧ t = s.raise .stackUnderflow (encode .ret)) ∨
    ∃ used : 0 < s.sp.val, t =
      { s with sp := ⟨s.sp.val - 1, by omega⟩, pc := addr16 (s.stack[s.sp.val - 1]'(by omega)).toNat } := by
  simp only [exec, execRet] at h
  rcases Nat.eq_zero_or_pos s.sp.val with hz | hp
  · rw [State.pop_of_empty s hz] at h
    exact .inl ⟨hz, (Host.Outcome.next.inj h).symm⟩
  · rw [State.pop_of_pos s hp] at h
    exact .inr ⟨hp, (Host.Outcome.next.inj h).symm⟩

/-- `CALL` either raises or pushes and sets `pc` (40_flow.md R103). -/
theorem exec_call_cases {nnn : Addr12} {s t : State} (h : exec (.call nnn) s = .next t) :
    (s.sp.val = 16 ∧ t = s.raise .stackOverflow (encode (.call nnn))) ∨
    ∃ room : s.sp.val < 16, t =
      { s with
        stack := s.stack.set s.sp.val (addr16 (s.pc.toNat + 2)) room
        sp := ⟨s.sp.val + 1, by omega⟩
        pc := addr16 nnn.toNat } := by
  simp only [exec, execCall] at h
  by_cases hp : s.sp.val < 16
  · rw [State.push_of_lt s _ hp] at h
    exact .inr ⟨hp, (Host.Outcome.next.inj h).symm⟩
  · have hf : s.sp.val = 16 := by omega
    rw [State.push_of_full s _ hf] at h
    exact .inl ⟨hf, (Host.Outcome.next.inj h).symm⟩

/-- The key-wait either does nothing, no key being pressed, or records a pressed key (45_timers_keys.md R161). -/
theorem exec_ldVxK_cases {x : Nibble} {s t : State} (h : exec (.ldVxK x) s = .next t) :
    ((∀ k, s.keyDown k = false) ∧ t = s) ∨
    ∃ k, s.keyDown k = true ∧ t = ({ s with picks := s.picks + 1 }.setV x (BitVec.ofNat 8 k.toNat)).advance := by
  simp only [exec, execLdVxK] at h
  cases hk : keySelect s.picks s.pressedKeys with
  | none =>
    rw [hk] at h
    refine .inl ⟨fun k => ?_, (Host.Outcome.next.inj h).symm⟩
    have he := (keySelect_eq_none _ _).1 hk
    have hm := State.mem_pressedKeys s k
    rw [he] at hm
    simpa using hm
  | some k =>
    rw [hk] at h
    exact .inr ⟨k, (State.mem_pressedKeys s k).1 (keySelect_mem hk), (Host.Outcome.next.inj h).symm⟩

theorem exec_keepsOutside {i : Instr} {s t : State} (h : exec i s = .next t) : KeepsOutside s t := by
  cases i
  case ret => rcases exec_ret_cases h with ⟨_, rfl⟩ | ⟨_, rfl⟩ <;> exact ⟨rfl, rfl, rfl, rfl⟩
  case call => rcases exec_call_cases h with ⟨_, rfl⟩ | ⟨_, rfl⟩ <;> exact ⟨rfl, rfl, rfl, rfl⟩
  case ldVxK => rcases exec_ldVxK_cases h with ⟨_, rfl⟩ | ⟨_, _, rfl⟩ <;> exact ⟨rfl, rfl, rfl, rfl⟩
  case dump =>
    obtain rfl := Host.Outcome.next.inj h
    rw [State.storeRegs_eq]; exact ⟨rfl, rfl, rfl, rfl⟩
  case load =>
    obtain rfl := Host.Outcome.next.inj h
    rw [State.loadRegs_eq]; exact ⟨rfl, rfl, rfl, rfl⟩
  case seImm | sneImm | seReg | sneReg | skp | sknp =>
    obtain rfl := Host.Outcome.next.inj h
    rw [State.skipIf_eq]; exact ⟨rfl, rfl, rfl, rfl⟩
  all_goals (obtain rfl := Host.Outcome.next.inj h; exact ⟨rfl, rfl, rfl, rfl⟩)

/-- An instruction leaves the run's status alone or raises one fault, which changes nothing else (60_exceptions.md R174,
R178). -/
theorem exec_status {i : Instr} {s t : State} (h : exec i s = .next t) :
    (t.alive = s.alive ∧ t.diag = s.diag) ∨
    (∃ nnn, i = .sys nnn ∧ t = s.raise .unknownOpcode (encode i)) ∨
    (∃ nnn, i = .call nnn ∧ s.sp.val = 16 ∧ t = s.raise .stackOverflow (encode i)) ∨
    (i = .ret ∧ s.sp.val = 0 ∧ t = s.raise .stackUnderflow (encode i)) := by
  cases i
  case sys nnn => exact .inr (.inl ⟨nnn, rfl, (Host.Outcome.next.inj h).symm⟩)
  case ret =>
    rcases exec_ret_cases h with ⟨hz, rfl⟩ | ⟨_, rfl⟩
    · exact .inr (.inr (.inr ⟨rfl, hz, rfl⟩))
    · exact .inl ⟨rfl, rfl⟩
  case call nnn =>
    rcases exec_call_cases h with ⟨hf, rfl⟩ | ⟨_, rfl⟩
    · exact .inr (.inr (.inl ⟨nnn, rfl, hf, rfl⟩))
    · exact .inl ⟨rfl, rfl⟩
  case ldVxK => rcases exec_ldVxK_cases h with ⟨_, rfl⟩ | ⟨_, _, rfl⟩ <;> exact .inl ⟨rfl, rfl⟩
  case dump =>
    obtain rfl := Host.Outcome.next.inj h
    rw [State.storeRegs_eq]; exact .inl ⟨rfl, rfl⟩
  case load =>
    obtain rfl := Host.Outcome.next.inj h
    rw [State.loadRegs_eq]; exact .inl ⟨rfl, rfl⟩
  case seImm | sneImm | seReg | sneReg | skp | sknp =>
    obtain rfl := Host.Outcome.next.inj h
    rw [State.skipIf_eq]; exact .inl ⟨rfl, rfl⟩
  all_goals (obtain rfl := Host.Outcome.next.inj h; exact .inl ⟨rfl, rfl⟩)

end Sys2Proof.Machine
end

