-- ==== Sys2Proof/Laws/PerInstr.lean ====
section
/-!
SUPPORT. A law of every instruction as syntax: its word selects its row of the table of 30_encoding.md R76.
-/

namespace Sys2Proof.Laws

/-- `(encode i) & mask = match` for the instruction's row (30_encoding.md R76). -/
def RowMatch.Statement (i : Instr) : Prop := encode i &&& (rowMaskMatch i).1 = (rowMaskMatch i).2

theorem RowMatch.sys (nnn : Addr12) : RowMatch.Statement (.sys nnn) := formatA_and_mask (by decide) _
theorem RowMatch.cls : RowMatch.Statement (.cls) := rfl
theorem RowMatch.ret : RowMatch.Statement (.ret) := rfl
theorem RowMatch.jp (nnn : Addr12) : RowMatch.Statement (.jp nnn) := formatA_and_mask (by decide) _
theorem RowMatch.call (nnn : Addr12) : RowMatch.Statement (.call nnn) := formatA_and_mask (by decide) _
theorem RowMatch.seImm (x : Nibble) (kk : Byte) : RowMatch.Statement (.seImm x kk) := formatXNN_and_mask (by decide) _ _
theorem RowMatch.sneImm (x : Nibble) (kk : Byte) : RowMatch.Statement (.sneImm x kk) := formatXNN_and_mask (by decide) _ _
theorem RowMatch.seReg (x y n : Nibble) : RowMatch.Statement (.seReg x y n) := formatXYN_and_mask (by decide) _ _ _
theorem RowMatch.ldImm (x : Nibble) (kk : Byte) : RowMatch.Statement (.ldImm x kk) := formatXNN_and_mask (by decide) _ _
theorem RowMatch.addImm (x : Nibble) (kk : Byte) : RowMatch.Statement (.addImm x kk) := formatXNN_and_mask (by decide) _ _
theorem RowMatch.ldReg (x y : Nibble) : RowMatch.Statement (.ldReg x y) := formatXYN_and_maskN (by decide) _ _ _
theorem RowMatch.orReg (x y : Nibble) : RowMatch.Statement (.orReg x y) := formatXYN_and_maskN (by decide) _ _ _
theorem RowMatch.andReg (x y : Nibble) : RowMatch.Statement (.andReg x y) := formatXYN_and_maskN (by decide) _ _ _
theorem RowMatch.xorReg (x y : Nibble) : RowMatch.Statement (.xorReg x y) := formatXYN_and_maskN (by decide) _ _ _
theorem RowMatch.addReg (x y : Nibble) : RowMatch.Statement (.addReg x y) := formatXYN_and_maskN (by decide) _ _ _
theorem RowMatch.sub (x y : Nibble) : RowMatch.Statement (.sub x y) := formatXYN_and_maskN (by decide) _ _ _
theorem RowMatch.shr (x y : Nibble) : RowMatch.Statement (.shr x y) := formatXYN_and_maskN (by decide) _ _ _
theorem RowMatch.subn (x y : Nibble) : RowMatch.Statement (.subn x y) := formatXYN_and_maskN (by decide) _ _ _
theorem RowMatch.shl (x y : Nibble) : RowMatch.Statement (.shl x y) := formatXYN_and_maskN (by decide) _ _ _
theorem RowMatch.sneReg (x y n : Nibble) : RowMatch.Statement (.sneReg x y n) := formatXYN_and_mask (by decide) _ _ _
theorem RowMatch.ldI (nnn : Addr12) : RowMatch.Statement (.ldI nnn) := formatA_and_mask (by decide) _
theorem RowMatch.jpV0 (nnn : Addr12) : RowMatch.Statement (.jpV0 nnn) := formatA_and_mask (by decide) _
theorem RowMatch.rnd (x : Nibble) (kk : Byte) : RowMatch.Statement (.rnd x kk) := formatXNN_and_mask (by decide) _ _
theorem RowMatch.drw (x y n : Nibble) : RowMatch.Statement (.drw x y n) := formatXYN_and_mask (by decide) _ _ _
theorem RowMatch.skp (x : Nibble) : RowMatch.Statement (.skp x) := formatXNN_and_maskNN (by decide) _ _
theorem RowMatch.sknp (x : Nibble) : RowMatch.Statement (.sknp x) := formatXNN_and_maskNN (by decide) _ _
theorem RowMatch.ldVxDT (x : Nibble) : RowMatch.Statement (.ldVxDT x) := formatXNN_and_maskNN (by decide) _ _
theorem RowMatch.ldVxK (x : Nibble) : RowMatch.Statement (.ldVxK x) := formatXNN_and_maskNN (by decide) _ _
theorem RowMatch.ldDTVx (x : Nibble) : RowMatch.Statement (.ldDTVx x) := formatXNN_and_maskNN (by decide) _ _
theorem RowMatch.ldSTVx (x : Nibble) : RowMatch.Statement (.ldSTVx x) := formatXNN_and_maskNN (by decide) _ _
theorem RowMatch.addI (x : Nibble) : RowMatch.Statement (.addI x) := formatXNN_and_maskNN (by decide) _ _
theorem RowMatch.ldF (x : Nibble) : RowMatch.Statement (.ldF x) := formatXNN_and_maskNN (by decide) _ _
theorem RowMatch.ldB (x : Nibble) : RowMatch.Statement (.ldB x) := formatXNN_and_maskNN (by decide) _ _
theorem RowMatch.dump (x : Nibble) : RowMatch.Statement (.dump x) := formatXNN_and_maskNN (by decide) _ _
theorem RowMatch.load (x : Nibble) : RowMatch.Statement (.load x) := formatXNN_and_maskNN (by decide) _ _

end Sys2Proof.Laws
end

