-- ==== Sys2Proof/Laws/Step.lean ====
section
/-!
SUPPORT. What a step can do, said once: the host's turn, then a halted request or a word run and a tick.
-/

namespace Sys2Proof.Machine

/-- The host's events change the keys and the dirty flag only. -/
theorem State.foldl_hostEvent (events : List HostEvent) (s : State) :
    ∃ key drawn, events.foldl State.hostEvent s = { s with key := key, drawn := drawn } ∧
      (drawn = true → s.drawn = true) := by
  induction events generalizing s with
  | nil => exact ⟨s.key, s.drawn, rfl, id⟩
  | cons e events ih =>
    obtain ⟨key, drawn, h, hd⟩ := ih (s.hostEvent e)
    refine ⟨key, drawn, ?_, fun hdr => ?_⟩
    · rw [List.foldl_cons, h]; cases e <;> rfl
    · have := hd hdr
      cases e <;> simp_all [State.hostEvent, State.setKey]

/-- The host does nothing when its agenda is empty, nor when it plans nothing before the coming cycle. -/
theorem State.hostTurn_of_nil {s : State} (h : s.agenda = []) : s.hostTurn = s := by simp only [State.hostTurn, h]

theorem State.hostTurn_of_nil_cons {s : State} {rest : List (List HostEvent)} (h : s.agenda = [] :: rest) :
    s.hostTurn = { s with agenda := rest } := by simp only [State.hostTurn, h, List.foldl_nil]

/-- The host's actions before a cycle happen one after the other, in order (00_scope.md R12). -/
theorem State.hostTurn_of_cons {s : State} {e : HostEvent} {events : List HostEvent} {rest : List (List HostEvent)}
    (h : s.agenda = (e :: events) :: rest) : s.hostTurn = { s.hostEvent e with agenda := events :: rest }.hostTurn := by
  simp only [State.hostTurn, h, List.foldl_cons]
  cases e <;> rfl

/-- The host's turn as an update: keys, dirty flag and agenda only (60_exceptions.md R195). -/
theorem State.hostTurn_cases (s : State) :
    ∃ key drawn, s.hostTurn = { s with key := key, drawn := drawn, agenda := s.agenda.tail } ∧
      (drawn = true → s.drawn = true) := by
  unfold State.hostTurn
  split
  · next h => exact ⟨s.key, s.drawn, by cases s; simp_all, id⟩
  · next events rest h =>
    obtain ⟨key, drawn, he, hd⟩ := State.foldl_hostEvent events { s with agenda := rest }
    exact ⟨key, drawn, by rw [he, h]; rfl, hd⟩

section
variable (s : State)

@[simp] theorem State.hostTurn_v : s.hostTurn.v = s.v := by obtain ⟨_, _, h, _⟩ := s.hostTurn_cases; rw [h]
@[simp] theorem State.hostTurn_i : s.hostTurn.i = s.i := by obtain ⟨_, _, h, _⟩ := s.hostTurn_cases; rw [h]
@[simp] theorem State.hostTurn_pc : s.hostTurn.pc = s.pc := by obtain ⟨_, _, h, _⟩ := s.hostTurn_cases; rw [h]
@[simp] theorem State.hostTurn_sp : s.hostTurn.sp = s.sp := by obtain ⟨_, _, h, _⟩ := s.hostTurn_cases; rw [h]
@[simp] theorem State.hostTurn_stack : s.hostTurn.stack = s.stack := by
  obtain ⟨_, _, h, _⟩ := s.hostTurn_cases; rw [h]
@[simp] theorem State.hostTurn_dt : s.hostTurn.dt = s.dt := by obtain ⟨_, _, h, _⟩ := s.hostTurn_cases; rw [h]
@[simp] theorem State.hostTurn_st : s.hostTurn.st = s.st := by obtain ⟨_, _, h, _⟩ := s.hostTurn_cases; rw [h]
@[simp] theorem State.hostTurn_mem : s.hostTurn.mem = s.mem := by obtain ⟨_, _, h, _⟩ := s.hostTurn_cases; rw [h]
@[simp] theorem State.hostTurn_disp : s.hostTurn.disp = s.disp := by
  obtain ⟨_, _, h, _⟩ := s.hostTurn_cases; rw [h]
@[simp] theorem State.hostTurn_alive : s.hostTurn.alive = s.alive := by
  obtain ⟨_, _, h, _⟩ := s.hostTurn_cases; rw [h]
@[simp] theorem State.hostTurn_diag : s.hostTurn.diag = s.diag := by
  obtain ⟨_, _, h, _⟩ := s.hostTurn_cases; rw [h]
@[simp] theorem State.hostTurn_trigger : s.hostTurn.trigger = s.trigger := by
  obtain ⟨_, _, h, _⟩ := s.hostTurn_cases; rw [h]
@[simp] theorem State.hostTurn_draws : s.hostTurn.draws = s.draws := by
  obtain ⟨_, _, h, _⟩ := s.hostTurn_cases; rw [h]
@[simp] theorem State.hostTurn_picks : s.hostTurn.picks = s.picks := by
  obtain ⟨_, _, h, _⟩ := s.hostTurn_cases; rw [h]
@[simp] theorem State.hostTurn_fonts : s.hostTurn.fonts = s.fonts := by
  obtain ⟨_, _, h, _⟩ := s.hostTurn_cases; rw [h]
@[simp] theorem State.hostTurn_getV (k : Nibble) : s.hostTurn.getV k = s.getV k := by
  obtain ⟨_, _, h, _⟩ := s.hostTurn_cases; rw [h]; rfl
@[simp] theorem State.hostTurn_readByte (a : Nat) : s.hostTurn.readByte a = s.readByte a := by
  obtain ⟨_, _, h, _⟩ := s.hostTurn_cases; rw [h]; rfl
@[simp] theorem State.hostTurn_fetchWord : s.hostTurn.fetchWord = s.fetchWord := by
  obtain ⟨_, _, h, _⟩ := s.hostTurn_cases; rw [h]; rfl

end

/-- What running a word can do: the decoded instruction, or the undefined-opcode fault (30_encoding.md R71, R79). -/
theorem runWord_cases {w : Word16} {s t : State} (h : runWord w s = .next t) :
    (∃ i, decodeWord w = .ok i ∧ exec i s = .next t) ∨
    (∃ e, decodeWord w = .error e) ∧ t = s.raise .unknownOpcode w := by
  unfold runWord at h
  split at h
  · next i hi => exact .inl ⟨i, hi, h⟩
  · next e he => exact .inr ⟨⟨e, he⟩, (Host.Outcome.next.inj h).symm⟩

theorem runWord_completes (w : Word16) (s : State) : ∃ t, runWord w s = .next t := by
  unfold runWord
  split
  · exact exec_completes _ s
  · exact ⟨_, rfl⟩

theorem runWord_keepsOutside {w : Word16} {s t : State} (h : runWord w s = .next t) : KeepsOutside s t := by
  rcases runWord_cases h with ⟨i, _, hi⟩ | ⟨_, rfl⟩
  · exact exec_keepsOutside hi
  · exact ⟨rfl, rfl, rfl, rfl⟩

/-- Everything a step can do: in the halted state the trigger is cleared; else the word fetched before the step is run on
the state the host left, with the trigger cleared, and the timers tick (00_scope.md R13; 60_exceptions.md R176, R184). -/
theorem step_cases {s t : State} (h : step s = .next t) :
    (s.alive = false ∧ t = s.hostTurn.clearTrigger) ∨
    (s.alive = true ∧ ∃ u, runWord s.fetchWord s.hostTurn.clearTrigger = .next u ∧ t = u.tick) := by
  unfold step cycle at h
  rw [State.hostTurn_alive, State.hostTurn_fetchWord] at h
  cases ha : s.alive with
  | false =>
    rw [ha] at h
    exact .inl ⟨rfl, (Host.Outcome.next.inj h).symm⟩
  | true =>
    rw [ha] at h
    obtain ⟨u, hu⟩ := runWord_completes s.fetchWord s.hostTurn.clearTrigger
    rw [hu] at h
    exact .inr ⟨rfl, u, hu, (Host.Outcome.next.inj h).symm⟩

/-- A step of a running machine, as an equation. -/
theorem step_of_alive {s u : State} (ha : s.alive = true)
    (hu : runWord s.fetchWord s.hostTurn.clearTrigger = .next u) : step s = .next u.tick := by
  unfold step cycle
  rw [State.hostTurn_alive, State.hostTurn_fetchWord, ha, hu]; rfl

end Sys2Proof.Machine
end

