-- ==== Sys2Proof/Tests/Slice0.lean ====
section
/-!
SUPPORT. Tests of one decode or one step, their expected results taken from spec/95_test_vectors.md, and a witness for the
hypotheses of each obligation.
-/

namespace Sys2Proof.Tests

open Sys2Proof.Machine

/-! ### Well-formedness: the words of `CLS` and `RET` are not `SYS` (30_encoding.md R76) -/

theorem test_wellFormed_refuses_sys_0E0 : WellFormed (.sys 0x0E0#12) = false := by decide
theorem test_wellFormed_refuses_sys_0EE : WellFormed (.sys 0x0EE#12) = false := by decide
theorem test_wellFormed_accepts_sys_neighbours :
    WellFormed (.sys 0x0E1#12) = true ∧ WellFormed (.sys 0x0EF#12) = true ∧ WellFormed .cls = true := by decide

/-! ### Decoding: every constructor from a word written out from the table of 30_encoding.md R76 and the fields of R72 -/

theorem test_decode_flow :
    decodeWord 0x0123#16 = .ok (.sys 0x123#12) ∧ decodeWord 0x00EE#16 = .ok .ret ∧
    decodeWord 0x1250#16 = .ok (.jp 0x250#12) ∧ decodeWord 0x2ABC#16 = .ok (.call 0xABC#12) ∧
    decodeWord 0xB3FF#16 = .ok (.jpV0 0x3FF#12) := by decide

theorem test_decode_skips :
    decodeWord 0x312A#16 = .ok (.seImm 0x1#4 0x2A#8) ∧ decodeWord 0x4E80#16 = .ok (.sneImm 0xE#4 0x80#8) ∧
    decodeWord 0x5343#16 = .ok (.seReg 0x3#4 0x4#4 0x3#4) ∧ decodeWord 0x9127#16 = .ok (.sneReg 0x1#4 0x2#4 0x7#4) ∧
    decodeWord 0xE59E#16 = .ok (.skp 0x5#4) ∧ decodeWord 0xE5A1#16 = .ok (.sknp 0x5#4) := by decide

theorem test_decode_loads_and_logic :
    decodeWord 0x63AB#16 = .ok (.ldImm 0x3#4 0xAB#8) ∧ decodeWord 0x71FF#16 = .ok (.addImm 0x1#4 0xFF#8) ∧
    decodeWord 0x8120#16 = .ok (.ldReg 0x1#4 0x2#4) ∧ decodeWord 0x8121#16 = .ok (.orReg 0x1#4 0x2#4) ∧
    decodeWord 0x8122#16 = .ok (.andReg 0x1#4 0x2#4) ∧ decodeWord 0x8123#16 = .ok (.xorReg 0x1#4 0x2#4) := by decide

theorem test_decode_arithmetic :
    decodeWord 0x8124#16 = .ok (.addReg 0x1#4 0x2#4) ∧ decodeWord 0x8125#16 = .ok (.sub 0x1#4 0x2#4) ∧
    decodeWord 0x8126#16 = .ok (.shr 0x1#4 0x2#4) ∧ decodeWord 0x8127#16 = .ok (.subn 0x1#4 0x2#4) ∧
    decodeWord 0x812E#16 = .ok (.shl 0x1#4 0x2#4) ∧ decodeWord 0xC30F#16 = .ok (.rnd 0x3#4 0x0F#8) := by decide

theorem test_decode_index_and_display :
    decodeWord 0xA300#16 = .ok (.ldI 0x300#12) ∧ decodeWord 0xF21E#16 = .ok (.addI 0x2#4) ∧
    decodeWord 0xF429#16 = .ok (.ldF 0x4#4) ∧ decodeWord 0xF033#16 = .ok (.ldB 0x0#4) ∧
    decodeWord 0xF255#16 = .ok (.dump 0x2#4) ∧ decodeWord 0xFE65#16 = .ok (.load 0xE#4) ∧
    decodeWord 0x00E0#16 = .ok .cls ∧ decodeWord 0xDAB5#16 = .ok (.drw 0xA#4 0xB#4 0x5#4) := by decide

theorem test_decode_timers_and_keys :
    decodeWord 0xF107#16 = .ok (.ldVxDT 0x1#4) ∧ decodeWord 0xF20A#16 = .ok (.ldVxK 0x2#4) ∧
    decodeWord 0xF015#16 = .ok (.ldDTVx 0x0#4) ∧ decodeWord 0xF018#16 = .ok (.ldSTVx 0x0#4) := by decide

/-- The three groups of 30_encoding.md R79; the words are 95_test_vectors.md 2.1. -/
theorem test_decode_undefined :
    decodeWord 0x8128#16 = .error (.family8 0x8128#16) ∧ decodeWord 0xE19F#16 = .error (.familyE 0xE19F#16) ∧
    decodeWord 0xF130#16 = .error (.familyF 0xF130#16) := by decide

/-- The first byte is the high one (95_test_vectors.md 2.1), and one byte is no instruction. -/
theorem test_decode_bytes :
    decode [0xDA#8, 0xB5#8, 0x77#8] = .ok (.drw 0xA#4 0xB#4 0x5#4, [0x77#8]) ∧
    decode [0xDA#8] = .error .truncated ∧ decodeTableWord 16 0xDAB5 = some (.drw 0xA#4 0xB#4 0x5#4) := by decide

/-! ### One step on a small state; every expected value is a row of 95_test_vectors.md, part 2 -/

/-- The state after one step that runs the word `w`, none where the step gives no next state. -/
def ran (w : Nat) (s : State) : Option State :=
  match step (s.withFetchWord 16 w) with
  | .next t => some t
  | .fault _ => none
  | .refused _ => none

/-- Reset with two registers set. -/
def withV (x : Nibble) (a : Byte) (y : Nibble) (b : Byte) : State := (State.reset.setV x a).setV y b

/-- Reset with bytes in memory and `I` at the first of them. -/
def withBytes (a : Nat) (bytes : List Byte) : State := (State.loadBytes bytes a State.reset).setI a

/-- A register, `VF` and `pc`. -/
def seen (x : Nibble) (t : State) : Byte × Byte × Word16 := (t.getV x, t.getV regVF, t.pc)

/-- The fault report and `pc`. -/
def report (t : State) : Bool × Option Diag × Word16 := (t.alive, t.diag, t.pc)

theorem test_fetch_wraps :
    (ran 0x1250 { State.reset with pc := 0xFFF#16 }).map (·.pc) = some 0x250#16 := by decide
theorem test_fetch_odd :
    (ran 0x6107 { State.reset with pc := 0x201#16 }).map (seen 0x1#4) = some (0x07#8, 0x00#8, 0x203#16) := by decide
theorem test_undefined_ticks :
    (ran 0xF130 { State.reset with dt := 5#8, st := 1#8 }).map (fun t => (report t, t.dt, t.st, t.trigger)) =
      some ((false, some ⟨.unknownOpcode, 0xF130#16, 0x200#16⟩, 0x200#16), 4#8, 0#8, true) := by decide
theorem test_reset_halts_on_zeroed_memory :
    (ran 0x0000 State.reset).map report = some (false, some ⟨.unknownOpcode, 0x0000#16, 0x200#16⟩, 0x200#16) := by decide

theorem test_sys :
    (ran 0x0123 State.reset).map report = some (false, some ⟨.unknownOpcode, 0x0123#16, 0x200#16⟩, 0x200#16) := by decide
theorem test_ret :
    (ran 0x00EE { State.reset with sp := 1, stack := State.reset.stack.set 0 0x0206#16, pc := 0x212#16 }).map
      (fun t => (t.sp, t.pc, t.stack[0])) = some (0, 0x206#16, 0x0206#16) := by decide
theorem test_ret_underflow :
    (ran 0x00EE State.reset).map report = some (false, some ⟨.stackUnderflow, 0x00EE#16, 0x200#16⟩, 0x200#16) := by decide
theorem test_jp : (ran 0x1FFF State.reset).map (·.pc) = some 0xFFF#16 := by decide
theorem test_call_last_entry :
    (ran 0x2300 { State.reset with sp := 15, pc := 0x240#16 }).map (fun t => (t.stack[15], t.sp, t.pc)) =
      some (0x0242#16, 16, 0x300#16) := by decide
theorem test_call_overflow :
    (ran 0x2300 { State.reset with sp := 16, pc := 0x240#16 }).map (fun t => (report t, t.sp)) =
      some ((false, some ⟨.stackOverflow, 0x2300#16, 0x240#16⟩, 0x240#16), 16) := by decide
theorem test_jpV0_register : (ran 0xB3FF (withV 0x0#4 0x01#8 0x3#4 0x80#8)).map (·.pc) = some 0x400#16 := by decide
theorem test_jpV0_wraps : (ran 0xBFFF (withV 0x0#4 0xFF#8 0x1#4 0x00#8)).map (·.pc) = some 0x0FE#16 := by decide

theorem test_seImm_wraps : (ran 0x3100 { State.reset with pc := 0xFFE#16 }).map (·.pc) = some 0x002#16 := by decide
theorem test_seImm_not_taken : (ran 0x312B (withV 0x1#4 0x2A#8 0x2#4 0x00#8)).map (·.pc) = some 0x202#16 := by decide
theorem test_sneImm : (ran 0x4100 (withV 0x1#4 0x01#8 0x2#4 0x00#8)).map (·.pc) = some 0x204#16 := by decide
theorem test_sneImm_not_taken : (ran 0x4100 State.reset).map (·.pc) = some 0x202#16 := by decide
theorem test_seReg : (ran 0x5121 (withV 0x1#4 0x09#8 0x2#4 0x09#8)).map (·.pc) = some 0x204#16 := by decide
theorem test_seReg_differs : (ran 0x5340 (withV 0x3#4 0x7F#8 0x4#4 0x7E#8)).map (·.pc) = some 0x202#16 := by decide
theorem test_sneReg : (ran 0x9340 (withV 0x3#4 0x7F#8 0x4#4 0x7E#8)).map (·.pc) = some 0x204#16 := by decide
theorem test_sneReg_same : (ran 0x9330 (withV 0x3#4 0x7F#8 0x4#4 0x7E#8)).map (·.pc) = some 0x202#16 := by decide
theorem test_skp_low_bits :
    (ran 0xE59E ((withV 0x5#4 0x17#8 0x1#4 0x00#8).setKey 0x7#4 true)).map (·.pc) = some 0x204#16 := by decide
theorem test_skp_released : (ran 0xE59E (withV 0x5#4 0x07#8 0x1#4 0x00#8)).map (·.pc) = some 0x202#16 := by decide
theorem test_sknp :
    (ran 0xE5A1 ((withV 0x5#4 0x07#8 0x1#4 0x00#8).setKey 0x7#4 true)).map (·.pc) = some 0x202#16 := by decide
theorem test_sknp_released : (ran 0xE5A1 (withV 0x5#4 0x07#8 0x1#4 0x00#8)).map (·.pc) = some 0x204#16 := by decide

theorem test_ldImm : (ran 0x6F77 State.reset).map (seen 0xF#4) = some (0x77#8, 0x77#8, 0x202#16) := by decide
theorem test_addImm_no_flag :
    (ran 0x7101 (withV 0x1#4 0xFF#8 0x2#4 0x00#8)).map (seen 0x1#4) = some (0x00#8, 0x00#8, 0x202#16) := by decide
theorem test_ldReg :
    (ran 0x8120 (withV 0x1#4 0x00#8 0x2#4 0x33#8)).map (seen 0x1#4) = some (0x33#8, 0x00#8, 0x202#16) := by decide
theorem test_orReg_keeps_flag :
    (ran 0x8121 ((withV 0x1#4 0xF0#8 0x2#4 0x0F#8).setV 0xF#4 0x01#8)).map (seen 0x1#4) =
      some (0xFF#8, 0x01#8, 0x202#16) := by decide
theorem test_andReg :
    (ran 0x8122 (withV 0x1#4 0xF3#8 0x2#4 0x3C#8)).map (seen 0x1#4) = some (0x30#8, 0x00#8, 0x202#16) := by decide
theorem test_xorReg :
    (ran 0x8123 (withV 0x1#4 0xFF#8 0x2#4 0x0F#8)).map (seen 0x1#4) = some (0xF0#8, 0x00#8, 0x202#16) := by decide
theorem test_addReg_flag_last :
    (ran 0x8F14 (withV 0x1#4 0x01#8 0xF#4 0xFF#8)).map (seen 0x1#4) = some (0x01#8, 0x01#8, 0x202#16) := by decide
theorem test_addReg_old_flag_operand :
    (ran 0x81F4 (withV 0x1#4 0xFF#8 0xF#4 0x01#8)).map (seen 0x1#4) = some (0x00#8, 0x01#8, 0x202#16) := by decide
theorem test_addReg_no_carry :
    (ran 0x8124 (withV 0x1#4 0xFE#8 0x2#4 0x01#8)).map (seen 0x1#4) = some (0xFF#8, 0x00#8, 0x202#16) := by decide
theorem test_sub_borrow :
    (ran 0x8125 (withV 0x1#4 0x00#8 0x2#4 0x01#8)).map (seen 0x1#4) = some (0xFF#8, 0x00#8, 0x202#16) := by decide
theorem test_sub_equal :
    (ran 0x8125 (withV 0x1#4 0x07#8 0x2#4 0x07#8)).map (seen 0x1#4) = some (0x00#8, 0x01#8, 0x202#16) := by decide
theorem test_shr_in_place :
    (ran 0x8126 (withV 0x1#4 0xFF#8 0x2#4 0x00#8)).map (seen 0x1#4) = some (0x7F#8, 0x01#8, 0x202#16) := by decide
theorem test_shr_flag_register :
    (ran 0x8F06 (withV 0xF#4 0x03#8 0x1#4 0x00#8)).map (seen 0xF#4) = some (0x01#8, 0x01#8, 0x202#16) := by decide
theorem test_subn_borrow :
    (ran 0x8127 (withV 0x1#4 0x01#8 0x2#4 0x00#8)).map (seen 0x1#4) = some (0xFF#8, 0x00#8, 0x202#16) := by decide
theorem test_subn :
    (ran 0x8127 (withV 0x1#4 0x01#8 0x2#4 0x03#8)).map (seen 0x1#4) = some (0x02#8, 0x01#8, 0x202#16) := by decide
theorem test_shl :
    (ran 0x810E (withV 0x1#4 0x81#8 0x2#4 0x00#8)).map (seen 0x1#4) = some (0x02#8, 0x01#8, 0x202#16) := by decide
theorem test_shl_no_bit_out :
    (ran 0x810E (withV 0x1#4 0x40#8 0x2#4 0x00#8)).map (seen 0x1#4) = some (0x80#8, 0x00#8, 0x202#16) := by decide
/-- The byte is free, so only what no byte can change is tested: the draw is counted and `pc` advances. -/
theorem test_rnd_draws_once : (ran 0xC300 State.reset).map (fun t => (t.draws, t.pc)) = some (1, 0x202#16) := by decide

theorem test_ldI : (ran 0xAFFF State.reset).map (fun t => (t.i, t.pc)) = some (0xFFF#16, 0x202#16) := by decide
theorem test_addI_wraps :
    (ran 0xF21E { withV 0x2#4 0x02#8 0x1#4 0x00#8 with i := 0xFFF#16 }).map (fun t => (t.i, t.getV regVF)) =
      some (0x001#16, 0x00#8) := by decide
theorem test_ldF_low_bits : (ran 0xF429 (withV 0x4#4 0x1A#8 0x1#4 0x00#8)).map (·.i) = some 0x032#16 := by decide
theorem test_ldB_wraps :
    (ran 0xF033 { withV 0x0#4 0x7B#8 0x1#4 0x00#8 with i := 0xFFE#16 }).map
      (fun t => (t.readByte 0xFFE, t.readByte 0xFFF, t.readByte 0x000, t.i)) =
      some (0x01#8, 0x02#8, 0x03#8, 0xFFE#16) := by decide
theorem test_dump_wraps :
    (ran 0xF155 { withV 0x0#4 0xAA#8 0x1#4 0xBB#8 with i := 0xFFF#16 }).map
      (fun t => (t.readByte 0xFFF, t.readByte 0x000, t.i)) = some (0xAA#8, 0xBB#8, 0x001#16) := by decide
theorem test_load :
    (ran 0xF265 (withBytes 0x300 [0x02#8, 0x05#8, 0x04#8])).map (fun t => (t.getV 0#4, t.getV 1#4, t.getV 2#4, t.getV 3#4, t.i)) =
      some (0x02#8, 0x05#8, 0x04#8, 0x00#8, 0x303#16) := by decide

theorem test_cls :
    (ran 0x00E0 { State.reset with disp := setCell State.reset.disp 5 7 true }).map (fun t => (cell t.disp 5 7, t.drawn, t.pc)) =
      some (false, true, 0x202#16) := by decide
/-- Rows `F0 80` at column 62, row 31: five cells, wrapped on both edges (95_test_vectors.md 2.6). -/
theorem test_drw_wraps :
    (ran 0xD012 (((withBytes 0x300 [0xF0#8, 0x80#8]).setV 0x0#4 62#8).setV 0x1#4 31#8)).map
      (fun t => ([cell t.disp 62 31, cell t.disp 63 31, cell t.disp 0 31, cell t.disp 1 31, cell t.disp 62 0],
        cell t.disp 2 31, cell t.disp 63 0, t.getV regVF)) =
      some ([true, true, true, true, true], false, false, 0x00#8) := by decide
theorem test_drw_collision :
    (ran 0xD011 { withBytes 0x300 [0xC0#8] with disp := setCell State.reset.disp 0 0 true }).map
      (fun t => (cell t.disp 0 0, cell t.disp 1 0, t.getV regVF)) = some (false, true, 0x01#8) := by decide

theorem test_ldVxDT_before_tick :
    (ran 0xF107 { State.reset with dt := 2#8 }).map (fun t => (t.getV 0x1#4, t.dt)) = some (0x02#8, 1#8) := by decide
theorem test_ldVxK_waits :
    (ran 0xF20A { State.reset with st := 1#8 }).map (fun t => (t.pc, t.st, t.trigger)) = some (0x200#16, 0#8, true) := by decide
theorem test_ldVxK_records :
    (ran 0xF20A (State.reset.setKey 0x7#4 true)).map (seen 0x2#4) = some (0x07#8, 0x00#8, 0x202#16) := by decide
theorem test_ldDTVx : (ran 0xF015 (withV 0x0#4 0x03#8 0x1#4 0x00#8)).map (·.dt) = some 2#8 := by decide
theorem test_ldSTVx_trigger :
    (ran 0xF018 (withV 0x0#4 0x01#8 0x1#4 0x00#8)).map (fun t => (t.st, t.trigger)) = some (0#8, true) := by decide

/-- The host presses key 7 before the cycle (95_test_vectors.md, program P4, cycle 7). -/
theorem test_host_presses_before_cycle :
    (ran 0xF20A { State.reset with agenda := [[.pressKey 0x7#4]] }).map (fun t => (t.getV 0x2#4, t.agenda)) =
      some (0x07#8, []) := by decide

/-- The actions before a cycle happen in order, and the dirty flag stays clear (95_test_vectors.md S7). -/
theorem test_host_acts_in_order :
    (ran 0x1200 { State.reset with drawn := true, agenda := [[.pressKey 0x7#4, .releaseKey 0x7#4, .clearDrawn]] }).map
      (fun t => (t.keyDown 0x7#4, t.drawn)) = some (false, false) := by decide

/-- 95_test_vectors.md 2.9: the loaded bytes are the first instruction. -/
theorem test_boot : (boot [0x12#8, 0x00#8] []).nextInstr = some (.jp 0x200#12) := by decide

/-! ### Witnesses: the hypotheses of each obligation are met by something -/

/-- A halted machine. -/
def halted : State := State.reset.raise .unknownOpcode 0x0000#16

/-- A machine about to run one word. -/
def poised (w : Nat) : State := State.reset.withFetchWord 16 w

theorem witness_DecodeOfEncode : WellFormed (.sys 0x0E1#12) = true ∧ WellFormed (.drw 0xF#4 0xF#4 0xF#4) = true := by decide
theorem witness_EncodeOfDecode :
    decodeWord 0x812E#16 = .ok (.shl 0x1#4 0x2#4) ∧ decodeWord 0x0FFF#16 = .ok (.sys 0xFFF#12) := by decide
theorem witness_DecodeReadsTwoBytes : WellFormed (.load 0xF#4) = true := by decide
theorem witness_UndefinedWordsExactly :
    decodeWord 0x8FF7#16 = .ok (.subn 0xF#4 0xF#4) ∧ decodeWord 0x8FFF#16 = .error (.family8 0x8FFF#16) ∧
    decodeWord 0xE0A2#16 = .error (.familyE 0xE0A2#16) ∧ decodeWord 0xFF66#16 = .error (.familyF 0xFF66#16) := by decide
theorem witness_RowsSelectByMask :
    decodeWord 0x00EF#16 = .ok (.sys 0x0EF#12) ∧ 0x00EF#16 &&& (rowMaskMatch (.sys 0#12)).1 = 0x0000#16 ∧
    0x00EE#16 &&& (rowMaskMatch (.sys 0#12)).1 = 0x0000#16 ∧ decodeWord 0x00EE#16 = .ok .ret := by decide
theorem witness_AccessMasksAddress :
    (State.reset.writeByte 0x1300 0x55#8).readByte 0x300 = 0x55#8 ∧
    (State.reset.writeByte 0x1300 0x55#8).readByte 0x301 = 0x00#8 := by decide
theorem test_memory_canonical_once_written :
    Memory.wf Fonts.reset [(0x300, 0x01#8)] ∧
    Memory.wf Fonts.reset (Memory.write Fonts.reset [] 0x300 0x01#8) ∧
    ∀ a, Memory.read Fonts.reset [(0x300, 0x01#8)] a =
      Memory.read Fonts.reset (Memory.write Fonts.reset [] 0x300 0x01#8) a := by
  have same : Memory.write Fonts.reset [] 0x300 0x01#8 = [(0x300, 0x01#8)] := by decide
  rw [same]
  exact ⟨by decide, by decide, fun _ => rfl⟩
theorem witness_ResetValues :
    State.reset.readByte 0x04F = 0x80#8 ∧ State.reset.readByte 0x050 = State.reset.fonts.hi[0] ∧
    State.reset.readByte 0x0EF = State.reset.fonts.hi[159] ∧ State.reset.readByte 0x0F0 = 0x00#8 ∧
    State.reset.readByte 0xFFF = 0x00#8 := ⟨by decide, rfl, rfl, by decide, by decide⟩
theorem witness_LoaderCopiesBytes :
    (State.loadBytes [0xAB#8, 0xCD#8] 0xFFF State.reset).readByte 0x000 = 0xCD#8 ∧
    (State.loadBytes [0xAB#8, 0xCD#8] 0xFFF State.reset).readByte 0xFFF = 0xAB#8 := by decide
theorem witness_LoaderLastByteWins : ∃ (bytes : List Byte) (offset k : Nat), k < bytes.length ∧
    ∀ j, k < j → j < bytes.length → (offset + j) % 4096 ≠ (offset + k) % 4096 :=
  ⟨[0xAB#8, 0xCD#8], 0xFFF, 0, by decide, fun j _ h => by simp only [List.length_cons, List.length_nil] at h; omega⟩
theorem witness_BootLoadsAfterReset : ∃ (program : List Byte) (k : Nat), k < program.length ∧
    ∀ j, k < j → j < program.length → (512 + j) % 4096 ≠ (512 + k) % 4096 :=
  ⟨[0x12#8, 0x00#8], 0, by decide, fun j _ h => by simp only [List.length_cons, List.length_nil] at h; omega⟩
theorem witness_HostTurnFrame : State.reset.agenda = [] ∧
    ({ State.reset with agenda := [[], [.clearDrawn]] } : State).agenda = [] :: [[.clearDrawn]] ∧
    ({ State.reset with agenda := [[.pressKey 0xF#4, .releaseKey 0x0#4]] } : State).agenda =
      (.pressKey 0xF#4 :: [.releaseKey 0x0#4]) :: [] := by decide
theorem witness_StepRunsDecoded : (poised 0x8124).alive = true ∧
    decode [(poised 0x8124).hostTurn.readByte (poised 0x8124).hostTurn.pc.toNat,
      (poised 0x8124).hostTurn.readByte ((poised 0x8124).hostTurn.pc.toNat + 1)] = .ok (.addReg 0x1#4 0x2#4, []) := by decide
theorem witness_TickAfterEveryStep : State.reset.alive = true := by decide
theorem witness_HaltedCycleChangesNothing :
    halted.alive = false ∧ halted.trigger = false ∧ ({ halted with trigger := true } : State).alive = false := by decide
theorem witness_HaltIsForGood :
    (∃ t, step halted = .next t ∧ halted.alive = false) ∧ ∃ t, step (poised 0x1200) = .next t ∧ t.alive = true :=
  ⟨⟨_, rfl, by decide⟩, ⟨_, rfl, by decide⟩⟩
theorem witness_FaultsArePrecise_unknownOpcode :
    State.reset.alive = true ∧ ∃ t, step State.reset = .next t ∧ t.alive = false := ⟨by decide, _, rfl, by decide⟩
theorem witness_FaultsArePrecise_stackOverflow : (poised 0x2300).alive = true ∧
    ∃ t, step { poised 0x2300 with sp := 16 } = .next t ∧ t.alive = false ∧ t.diag.map (·.cause) = some .stackOverflow :=
  ⟨by decide, _, rfl, by decide, by decide⟩
theorem witness_FaultsArePrecise_stackUnderflow : (poised 0x00EE).alive = true ∧
    ∃ t, step (poised 0x00EE) = .next t ∧ t.alive = false ∧ t.diag.map (·.cause) = some .stackUnderflow :=
  ⟨by decide, _, rfl, by decide, by decide⟩
theorem witness_UndefinedWordHalts : (poised 0x8128).alive = true ∧ (poised 0x8128).nextInstr = none := by decide
theorem witness_Inv : Inv State.reset :=
  ⟨by decide, by decide, by decide, by decide, by decide, fun _ h => by simp [State.reset] at h, by decide⟩
theorem witness_StepKeepsInv : ∃ s t : State, Inv s ∧ step s = .next t := ⟨State.reset, _, witness_Inv, rfl⟩
theorem witness_LoaderKeepsInv : ∃ s : State, Inv s := ⟨_, witness_Inv⟩

theorem witness_CallPushesReturn : State.reset.sp.val < 16 ∧ ({ State.reset with sp := 15 } : State).sp.val < 16 := by decide
theorem witness_StackFaults : ({ State.reset with sp := 16 } : State).sp.val = 16 ∧ State.reset.sp.val = 0 := by decide
theorem witness_ReturnPops :
    ({ State.reset with sp := 1 } : State).sp.val = (0 : Fin 16).val + 1 ∧
    ({ State.reset with sp := 16 } : State).sp.val = (15 : Fin 16).val + 1 := by decide
theorem witness_CallThenReturn : ∃ (nnn : Addr12) (s t u v : State), s.sp.val < 16 ∧ exec (.call nnn) s = .next t ∧
    u.sp = t.sp ∧ u.stack = t.stack ∧ exec .ret u = .next v :=
  ⟨0x300#12, State.reset, _, _, _, by decide, rfl, rfl, rfl, rfl⟩
theorem witness_DumpThenLoadRestores : ∃ (x : Nibble) (s t u v : State), exec (.dump x) s = .next t ∧ u.mem = t.mem ∧
    u.fonts = t.fonts ∧ u.i = s.i ∧ exec (.load x) u = .next v := by
  refine ⟨0x2#4, withV 0x0#4 0x11#8 0x2#4 0x33#8, _, ?u, _, rfl, ?_, ?_, ?_, rfl⟩
  case u =>
    exact { State.reset with mem := (State.storeRegs 3 (withV 0x0#4 0x11#8 0x2#4 0x33#8)).mem }
  all_goals rfl
theorem witness_DrawTwiceRestores : ∃ (x y n : Nibble) (s t u v : State), exec (.drw x y n) s = .next t ∧
    u.disp = t.disp ∧ u.mem = s.mem ∧ u.fonts = s.fonts ∧ u.i = s.i ∧ u.getV x = s.getV x ∧ u.getV y = s.getV y ∧
    exec (.drw x y n) u = .next v ∧ ∀ px py, cell s.disp px py = false :=
  ⟨0x0#4, 0x1#4, 0x1#4, withBytes 0x300 [0x80#8], _, _, _, rfl, rfl, rfl, rfl, rfl, rfl, rfl, rfl, fun px py => by
    change cell State.reset.disp px py = false
    simp [State.reset, cell, Config.displayReset]⟩
theorem witness_KeyWaitHolds : ∀ k, State.reset.keyDown k = false := by decide
theorem witness_KeyWaitRecords : ∃ k, (State.reset.setKey 0x0#4 true).keyDown k = true := ⟨0x0#4, by decide⟩

/-- A cycle of a jump to itself writes no timer; a cycle of each timer write does. -/
theorem witness_TimerLaw :
    (∃ s t, LeavesDT 1 s ∧ core.run 1 s = .next t) ∧ (∃ s t, LeavesST 1 s ∧ core.run 1 s = .next t) ∧
    (∃ t, (poised 0xF015).alive = true ∧ step (poised 0xF015) = .next t ∧
      (poised 0xF015).nextInstr = some (.ldDTVx 0x0#4)) ∧
    (∃ t, (poised 0xF018).alive = true ∧ step (poised 0xF018) = .next t ∧
      (poised 0xF018).nextInstr = some (.ldSTVx 0x0#4)) := by
  have e : (poised 0x1200).nextInstr = some (.jp 0x200#12) := by decide
  refine ⟨⟨poised 0x1200, _, ⟨by decide, fun x => ?_, fun _ _ => trivial⟩, rfl⟩,
    ⟨poised 0x1200, _, ⟨by decide, fun x => ?_, fun _ _ => trivial⟩, rfl⟩,
    ⟨_, by decide, rfl, by decide⟩, ⟨_, by decide, rfl, by decide⟩⟩ <;> simp [e]

theorem witness_PcChangesByTable :
    (∃ t, exec .ret State.reset = .next t) ∧ (∃ t, exec (.call 0x300#12) { State.reset with sp := 16 } = .next t) ∧
    (∃ t, exec (.ldVxK 0x2#4) State.reset = .next t) ∧ ∃ t, exec (.ldVxK 0x2#4) (State.reset.setKey 0xF#4 true) = .next t :=
  ⟨⟨_, rfl⟩, ⟨_, rfl⟩, ⟨_, rfl⟩, ⟨_, rfl⟩⟩
theorem witness_FlagWritersExactly :
    (∃ t, exec (.addReg 0xF#4 0xF#4) State.reset = .next t ∧ WritesFlag (.addReg 0xF#4 0xF#4) = true) ∧
    ∃ t, exec (.load 0xE#4) State.reset = .next t ∧ WritesFlag (.load 0xE#4) = false ∧
      destination (.load 0xE#4) ≠ some 0xF#4 := ⟨⟨_, rfl, by decide⟩, ⟨_, rfl, by decide, by decide⟩⟩
theorem witness_MemoryWritersExactly : ∃ t, exec (.dump 0xF#4) State.reset = .next t ∧
    ∀ j, j < storedBytes (.dump 0xF#4) → 16 % 4096 ≠ (State.reset.i.toNat + j) % 4096 :=
  ⟨_, rfl, by decide⟩
theorem witness_DisplayWritersExactly :
    (∃ t, exec .cls State.reset = .next t) ∧ ∃ t, exec (.jp 0x200#12) State.reset = .next t ∧
      (.jp 0x200#12 : Instr) ≠ .cls ∧ ∀ x y n, (.jp 0x200#12 : Instr) ≠ .drw x y n :=
  ⟨⟨_, rfl⟩, ⟨_, rfl, by decide, fun _ _ _ => by simp⟩⟩
theorem witness_OtherWritersExactly : ∃ t, exec (.ldI 0x300#12) State.reset = .next t ∧ t.i ≠ State.reset.i :=
  ⟨_, rfl, by decide⟩
theorem witness_UnreadableStateStaysOut : ∃ t, exec (.ldVxDT 0x1#4) State.reset = .next t := ⟨_, rfl⟩

end Sys2Proof.Tests
end

section
/-!
The step as an equation (00_scope.md R13; 30_encoding.md R71).
-/

namespace Sys2Proof.Machine

/-- A word that selects a row runs that row's instruction (30_encoding.md R71). -/
theorem runWord_of_decodeWord {w : Word16} {i : Instr} (h : decodeWord w = .ok i) (s : State) :
    runWord w s = exec i s := by
  simp only [runWord, h]

/-- One cycle of a running machine: trigger cleared, instruction, tick, in that order (00_scope.md R13). -/
theorem step_of_decodeWord {s : State} {i : Instr} (ha : s.alive = true) (hd : decodeWord s.fetchWord = .ok i) :
    step s = thenTick (exec i s.hostTurn.clearTrigger) := by
  obtain ⟨u, hu⟩ := runWord_completes s.fetchWord s.hostTurn.clearTrigger
  rw [step_of_alive ha hu, ← runWord_of_decodeWord hd, hu, thenTick]

/-- Settles O13: the two bytes decode as the fetched word does, and the host's turn does not change that word. -/
theorem stepRunsDecoded : Obligations.StepRunsDecoded := by
  intro s i ha hd
  have hw : decodeWord s.hostTurn.fetchWord = .ok i := (decode_two _ _ [] i).mp hd
  rw [State.hostTurn_fetchWord] at hw
  exact step_of_decodeWord ha hw

end Sys2Proof.Machine
end

section
/-!
The invariant along a step (O22): the ranges are kept operation by operation, the run's status by what an instruction does to
it, the trigger by what the tick does to the sound timer.
-/

namespace Sys2Proof.Machine

/-- The clauses of `Inv` that do not speak of the run's status: the canonical form of memory and the 12-bit ranges. -/
def InRange (s : State) : Prop :=
  Memory.wf s.fonts s.mem ∧ s.pc.toNat < 4096 ∧ s.i.toNat < 4096 ∧ ∀ k : Fin 16, s.stack[k].toNat < 4096

theorem Inv.inRange {s : State} (hs : Inv s) : InRange s := ⟨hs.memory, hs.pcRange, hs.iRange, hs.stackRange⟩

/-- In a running state without a trigger the ranges are the whole invariant. -/
theorem InRange.inv {s : State} (hs : InRange s) (ha : s.alive = true) (hd : s.diag = none) (ht : s.trigger = false) :
    Inv s := by
  obtain ⟨hm, hpc, hi, hst⟩ := hs
  exact ⟨hm, hpc, hi, hst, by simp [ha, hd], by simp [hd], by simp [ht]⟩

theorem InRange.setPc {s : State} (hs : InRange s) (a : Nat) : InRange (s.setPc a) := by
  obtain ⟨hm, _, hi, hst⟩ := hs
  exact ⟨hm, addr16_lt a, hi, hst⟩

theorem InRange.setI {s : State} (hs : InRange s) (a : Nat) : InRange (s.setI a) := by
  obtain ⟨hm, hpc, _, hst⟩ := hs
  exact ⟨hm, hpc, addr16_lt a, hst⟩

theorem InRange.writeByte {s : State} (hs : InRange s) (a : Nat) (b : Byte) : InRange (s.writeByte a b) := by
  obtain ⟨hm, hpc, hi, hst⟩ := hs
  exact ⟨Memory.wf_write _ _ _ _ hm, hpc, hi, hst⟩

theorem InRange.storeRegs {s : State} (hs : InRange s) (n : Nat) : InRange (State.storeRegs n s) := by
  induction n with
  | zero => exact hs
  | succ n ih => exact ih.writeByte _ _

theorem InRange.loadRegs {s : State} (hs : InRange s) (n : Nat) : InRange (State.loadRegs n s) := by
  rw [State.loadRegs_eq]; exact hs

theorem InRange.skipIf {s : State} (hs : InRange s) (c : Bool) : InRange (s.skipIf c) := by
  rw [State.skipIf_eq]; exact hs.setPc _

/-- A return address is pushed reduced to 12 bits (10_state.md R36). -/
theorem InRange.setStack {s : State} (hs : InRange s) (n a : Nat) (hn : n < 16) (sp : Fin 17) :
    InRange { s with stack := s.stack.set n (addr16 a) hn, sp := sp } := by
  obtain ⟨hm, hpc, hi, hst⟩ := hs
  refine ⟨hm, hpc, hi, fun k => ?_⟩
  simp only [Fin.getElem_fin, Vector.getElem_set]
  split
  · exact addr16_lt a
  · exact hst k

/-- Every instruction keeps memory canonical and `pc`, `I` and the stack entries below 4096 (D4, log 15, log 27). -/
theorem exec_inRange {i : Instr} {s t : State} (hs : InRange s) (h : exec i s = .next t) : InRange t := by
  cases i
  case ret =>
    rcases exec_ret_cases h with ⟨_, rfl⟩ | ⟨_, rfl⟩
    · exact hs
    · exact hs.setPc _
  case call =>
    rcases exec_call_cases h with ⟨_, rfl⟩ | ⟨room, rfl⟩
    · exact hs
    · exact (hs.setStack _ _ room _).setPc _
  case ldVxK =>
    rcases exec_ldVxK_cases h with ⟨_, rfl⟩ | ⟨_, _, rfl⟩
    · exact hs
    · exact hs.setPc _
  all_goals obtain rfl := Host.Outcome.next.inj h
  case sys => exact hs
  case seImm | sneImm | seReg | sneReg | skp | sknp => exact hs.skipIf _
  case ldI | addI | ldF => exact (hs.setI _).setPc _
  case ldB => exact (((hs.writeByte _ _).writeByte _ _).writeByte _ _).setPc _
  case dump => exact ((hs.storeRegs _).setI _).setPc _
  case load => exact ((hs.loadRegs _).setI _).setPc _
  all_goals exact hs.setPc _

theorem Inv.hostTurn {s : State} (hs : Inv s) : Inv s.hostTurn := by
  obtain ⟨key, drawn, he, _⟩ := s.hostTurn_cases
  obtain ⟨hm, hpc, hi, hst, ha, hd, ht⟩ := hs
  rw [he]; exact ⟨hm, hpc, hi, hst, ha, hd, ht⟩

theorem Inv.clearTrigger {s : State} (hs : Inv s) : Inv s.clearTrigger := by
  obtain ⟨hm, hpc, hi, hst, ha, hd, _⟩ := hs
  exact ⟨hm, hpc, hi, hst, ha, hd, by simp⟩

/-- Fault entry keeps the invariant: it leaves `pc`, so the report names it (60_exceptions.md R174, R175; D7, log 17). -/
theorem Inv.raise {s : State} (hs : Inv s) (c : Cause) (w : Word16) : Inv (s.raise c w) := by
  obtain ⟨hm, hpc, hi, hst, _, _, ht⟩ := hs
  exact ⟨hm, hpc, hi, hst, rfl, by simp, ht⟩

/-- The tick raises the trigger only where it takes the sound timer to 0 (60_exceptions.md R186; D19, log 28). -/
theorem Inv.tick {s : State} (hs : Inv s) (ht : s.trigger = false) : Inv s.tick := by
  obtain ⟨hm, hpc, hi, hst, ha, hd, _⟩ := hs
  refine ⟨hm, hpc, hi, hst, ha, hd, fun hraised => ?_⟩
  have hst1 : s.st = 0x01#8 := by simpa [ht] using hraised
  rw [State.tick_st, hst1]; rfl

/-- An instruction of a running state without a trigger keeps the invariant: it leaves the run's status alone, or it raises
one fault and changes nothing else (60_exceptions.md R178). -/
theorem exec_inv {i : Instr} {s t : State} (hs : Inv s) (ha : s.alive = true) (ht : s.trigger = false)
    (h : exec i s = .next t) : Inv t := by
  have hd : s.diag = none := by simpa [ha] using hs.diagHalted
  rcases exec_status h with ⟨halive, hdiag⟩ | ⟨_, _, rfl⟩ | ⟨_, _, _, rfl⟩ | ⟨_, _, rfl⟩
  · obtain ⟨_, _, _, htrig⟩ := exec_keepsOutside h
    exact (exec_inRange hs.inRange h).inv (halive.trans ha) (hdiag.trans hd) (htrig.trans ht)
  all_goals exact hs.raise _ _

theorem runWord_inv {w : Word16} {s t : State} (hs : Inv s) (ha : s.alive = true) (ht : s.trigger = false)
    (h : runWord w s = .next t) : Inv t := by
  rcases runWord_cases h with ⟨_, _, hi⟩ | ⟨_, rfl⟩
  · exact exec_inv hs ha ht hi
  · exact hs.raise _ _

/-- Settles O22: the host's turn and the clearing of the trigger keep the invariant, then the word run and the tick do. -/
theorem stepKeepsInv : Obligations.StepKeepsInv := by
  intro s t hs h
  have hc : Inv s.hostTurn.clearTrigger := hs.hostTurn.clearTrigger
  rcases step_cases h with ⟨_, rfl⟩ | ⟨ha, u, hu, rfl⟩
  · exact hc
  · have htrig : u.trigger = false := by
      obtain ⟨_, _, _, htrig⟩ := runWord_keepsOutside hu
      simpa using htrig
    exact (runWord_inv hc (by simpa using ha) rfl hu).tick htrig

end Sys2Proof.Machine
end

section
/-!
Who may write `I`, the call stack, the timers and the display, for every instruction (10_state.md R34, R36, R37, R42): one
inversion lemma that each whole-machine rule about these fields cites.
-/

namespace Sys2Proof.Machine

/-- What an instruction `i` may have changed of `s`. A field outside its constructor's list is as it was; the general
registers, `pc`, memory, the status and the counters of the free values are under no rule here. -/
inductive Footprint (s : State) (i : Instr) : State → Prop
  | plain {v pc mem alive diag draws picks} :
    Footprint s i { s with v := v, pc := pc, mem := mem, alive := alive, diag := diag, draws := draws, picks := picks }
  | index {v a pc mem}
    (writer : (∃ nnn, i = .ldI nnn) ∨ ∃ x, i = .addI x ∨ i = .ldF x ∨ i = .dump x ∨ i = .load x) :
    Footprint s i { s with v := v, i := a, pc := pc, mem := mem }
  | popped {pc sp} (writer : i = .ret) : Footprint s i { s with pc := pc, sp := sp }
  | pushed {pc sp stack} (writer : ∃ nnn, i = .call nnn) : Footprint s i { s with pc := pc, sp := sp, stack := stack }
  | display {v pc disp} (writer : i = .cls ∨ ∃ x y n, i = .drw x y n) :
    Footprint s i { s with v := v, pc := pc, disp := disp, drawn := true }
  | delayTimer {pc dt} (writer : ∃ x, i = .ldDTVx x) : Footprint s i { s with pc := pc, dt := dt }
  | soundTimer {pc st} (writer : ∃ x, i = .ldSTVx x) : Footprint s i { s with pc := pc, st := st }

theorem exec_footprint {i : Instr} {s t : State} (h : exec i s = .next t) : Footprint s i t := by
  cases i
  case ret =>
    rcases exec_ret_cases h with ⟨_, rfl⟩ | ⟨_, rfl⟩
    · exact .plain
    · exact .popped rfl
  case call =>
    rcases exec_call_cases h with ⟨_, rfl⟩ | ⟨_, rfl⟩
    · exact .plain
    · exact .pushed ⟨_, rfl⟩
  case ldVxK => rcases exec_ldVxK_cases h with ⟨_, rfl⟩ | ⟨_, _, rfl⟩ <;> exact .plain
  all_goals obtain rfl := Host.Outcome.next.inj h
  case seImm | sneImm | seReg | sneReg | skp | sknp => rw [State.skipIf_eq]; exact .plain
  case ldI => exact .index (.inl ⟨_, rfl⟩)
  case addI x | ldF x => exact .index (.inr ⟨x, by simp⟩)
  case dump x => rw [State.storeRegs_eq]; exact .index (.inr ⟨x, by simp⟩)
  case load x => rw [State.loadRegs_eq]; exact .index (.inr ⟨x, by simp⟩)
  case cls => exact .display (.inl rfl)
  case drw => exact .display (.inr ⟨_, _, _, rfl⟩)
  case ldDTVx => exact .delayTimer ⟨_, rfl⟩
  case ldSTVx => exact .soundTimer ⟨_, rfl⟩
  all_goals exact .plain

/-- `CLS` and `DRW` set the dirty flag (10_state.md R40). -/
theorem exec_drawn_of_display {i : Instr} {s t : State} (hi : i = .cls ∨ ∃ x y n, i = .drw x y n)
    (h : exec i s = .next t) : t.drawn = true := by
  rcases hi with rfl | ⟨_, _, _, rfl⟩ <;> (obtain rfl := Host.Outcome.next.inj h; rfl)

/-- Settles O57: the footprint on the display is that of `CLS` and `DRW` alone. -/
theorem displayWritersExactly : Obligations.DisplayWritersExactly := by
  intro i s t h
  refine ⟨fun hi => exec_drawn_of_display hi h, fun ⟨hcls, hdrw⟩ => ?_⟩
  cases exec_footprint h
  case display writer =>
    rcases writer with rfl | ⟨x, y, n, rfl⟩
    · exact absurd rfl hcls
    · exact absurd rfl (hdrw x y n)
  all_goals exact ⟨rfl, rfl⟩

/-- Settles O58: a field that changed is in the instruction's footprint, whose constructor names the writer. -/
theorem otherWritersExactly : Obligations.OtherWritersExactly := by
  intro i s t h
  obtain ⟨hkey, hagenda, hfonts, htrigger⟩ := exec_keepsOutside h
  refine ⟨fun hi => ?_, fun hstack => ?_, fun hsp => ?_, fun hdt => ?_, fun hst => ?_, hkey, htrigger, hfonts, hagenda⟩
  · cases exec_footprint h
    case index writer => exact writer
    all_goals exact absurd rfl hi
  · cases exec_footprint h
    case pushed writer => exact writer
    all_goals exact absurd rfl hstack
  · cases exec_footprint h
    case popped writer => exact .inl writer
    case pushed writer => exact .inr writer
    all_goals exact absurd rfl hsp
  · cases exec_footprint h
    case delayTimer writer => exact writer
    all_goals exact absurd rfl hdt
  · cases exec_footprint h
    case soundTimer writer => exact writer
    all_goals exact absurd rfl hst

end Sys2Proof.Machine
end

section
/-!
The register `VF` and the general registers (10_state.md R22, R27 to R30).
-/

namespace Sys2Proof.Machine

theorem State.getV_setV_of_ne (s : State) {x k : Nibble} (b : Byte) (h : k ≠ x) : (s.setV x b).getV k = s.getV k := by
  rw [State.getV_setV, if_neg h]

/-- A flag write leaves the whole of `VF` at the flag, with `X = 15` also (10_state.md R29; D9, log 18). -/
theorem State.getV_setResultFlag_VF (s : State) (x : Nibble) (r : Byte) (f : Bool) :
    (s.setResultFlag x r f).getV 0xF#4 = flagByte f := by
  rw [State.getV_setResultFlag, if_pos rfl]

/-- Each of the six flag writers leaves a flag in `VF` (10_state.md R27, R28). -/
theorem exec_getV_VF_of_writesFlag {i : Instr} {s t : State} (hi : WritesFlag i = true) (h : exec i s = .next t) :
    ∃ f, t.getV 0xF#4 = flagByte f := by
  cases i
  case addReg | sub | shr | subn | shl =>
    obtain rfl := Host.Outcome.next.inj h
    exact ⟨_, State.getV_setResultFlag_VF _ _ _ _⟩
  case drw =>
    obtain rfl := Host.Outcome.next.inj h
    exact ⟨_, (State.getV_setV _ _ _ _).trans (if_pos rfl)⟩
  all_goals exact absurd hi (by simp [WritesFlag])

/-- An instruction that is no flag writer leaves `VF` alone unless its `X` field names it (10_state.md R27; D11, log 20). -/
theorem exec_getV_VF_of_not_writesFlag {i : Instr} {s t : State} (hi : WritesFlag i = false)
    (hx : destination i ≠ some 0xF#4) (h : exec i s = .next t) : t.getV 0xF#4 = s.getV 0xF#4 := by
  have hne : ∀ {x : Nibble}, destination i = some x → 0xF#4 ≠ x := fun hd e => hx (e ▸ hd)
  cases i
  case addReg | sub | shr | subn | shl | drw => exact absurd hi (by simp [WritesFlag])
  case ret => rcases exec_ret_cases h with ⟨_, rfl⟩ | ⟨_, rfl⟩ <;> rfl
  case call => rcases exec_call_cases h with ⟨_, rfl⟩ | ⟨_, rfl⟩ <;> rfl
  case ldVxK =>
    rcases exec_ldVxK_cases h with ⟨_, rfl⟩ | ⟨_, _, rfl⟩
    · rfl
    · exact State.getV_setV_of_ne _ _ (hne rfl)
  all_goals obtain rfl := Host.Outcome.next.inj h
  case ldImm | addImm | ldReg | orReg | andReg | xorReg | rnd | ldVxDT => exact State.getV_setV_of_ne _ _ (hne rfl)
  case load x =>
    have hlt : ¬ (0xF#4).toNat < blockLength x := by
      have hne15 : 15 ≠ x.toNat := fun e => hne rfl (BitVec.eq_of_toNat_eq e)
      have := x.isLt
      simp only [blockLength, BitVec.toNat_ofNat]; omega
    have hle : blockLength x ≤ 16 := x.isLt
    rw [State.advance_getV, State.setI_getV, State.getV_loadRegs _ hle, if_neg hlt]
  case dump => exact State.storeRegs_getV _ _ _
  case seImm | sneImm | seReg | sneReg | skp | sknp => rw [State.skipIf_eq]; rfl
  all_goals rfl

/-- Settles O55: a flag is 0 or 1, and every other instruction leaves `VF` unless it names it. -/
theorem flagWritersExactly : Obligations.FlagWritersExactly := by
  intro i s t h
  refine ⟨fun hi => ?_, fun hi hx => exec_getV_VF_of_not_writesFlag hi hx h⟩
  obtain ⟨f, hf⟩ := exec_getV_VF_of_writesFlag hi h
  rw [hf]; exact flagByte_cases f

theorem State.getV_reset (x : Nibble) : State.reset.getV x = 0x00#8 := by
  simp only [State.getV, State.reset, Vector.getElem_replicate]

/-- Settles O9: reset fills the register file with 0. -/
theorem resetRegistersZero : Obligations.ResetRegistersZero := ⟨State.getV_reset, State.getV_reset regVF⟩

end Sys2Proof.Machine
end

section
/-!
The ways `pc` changes (10_state.md R25, R26).
-/

namespace Sys2Proof.Machine

theorem State.advance_pc_toNat (s : State) : s.advance.pc.toNat = (s.pc.toNat + 2) % 4096 := addr16_toNat _

/-- A conditional skip moves `pc` by 2 or by 4 (10_state.md R25). -/
theorem State.skipIf_pc_toNat (s : State) (c : Bool) :
    (s.skipIf c).pc.toNat = (s.pc.toNat + 2) % 4096 ∨ (s.skipIf c).pc.toNat = (s.pc.toNat + 4) % 4096 := by
  cases c
  · exact .inl (addr16_toNat _)
  · exact .inr (addr16_toNat _)

/-- A 12-bit address is a value of `pc` as it stands. -/
theorem addr16_toNat_addr12 (nnn : Addr12) : (addr16 nnn.toNat).toNat = nnn.toNat :=
  (addr16_toNat _).trans (Nat.mod_eq_of_lt nnn.isLt)

/-- Settles O54, row by row of the table of 10_state.md R25. -/
theorem pcChangesByTable : Obligations.PcChangesByTable := by
  intro i s t h
  cases i
  case call nnn =>
    rcases exec_call_cases h with ⟨hfull, rfl⟩ | ⟨hroom, rfl⟩
    · exact (if_pos hfull).mpr rfl
    · exact (if_neg hroom.ne).mpr (addr16_toNat_addr12 nnn)
  case ret =>
    rcases exec_ret_cases h with ⟨hempty, rfl⟩ | ⟨hused, rfl⟩
    · exact ⟨fun _ => rfl, fun k hk => by omega⟩
    · refine ⟨fun hempty => by omega, fun k hk => ?_⟩
      simp [hk]
  case ldVxK =>
    rcases exec_ldVxK_cases h with ⟨hnone, rfl⟩ | ⟨k, hk, rfl⟩
    · exact (if_neg (by simp [hnone])).mpr rfl
    · exact (if_pos ⟨k, hk⟩).mpr (addr16_toNat _)
  all_goals obtain rfl := Host.Outcome.next.inj h
  case sys => rfl
  case jp nnn => exact addr16_toNat_addr12 nnn
  case jpV0 => exact addr16_toNat _
  case seImm | sneImm | seReg | sneReg | skp | sknp => exact State.skipIf_pc_toNat _ _
  case dump => rw [State.storeRegs_eq]; exact State.advance_pc_toNat _
  case load => rw [State.loadRegs_eq]; exact State.advance_pc_toNat _
  all_goals exact State.advance_pc_toNat _

end Sys2Proof.Machine
end

section
/-!
What no instruction reads (10_state.md R37, R39, R40, R44): a change of the sound timer, the dirty flag, the report, the
trigger and the agenda goes through every operation, so it goes through every instruction.
-/

namespace Sys2Proof.Machine

/-- `s` with what no instruction reads taken from `r`: the sound timer, the dirty flag, the trigger, the fault report and
the model's own agenda. -/
def State.withUnread (s r : State) : State :=
  { s with st := r.st, drawn := r.drawn, trigger := r.trigger, diag := r.diag, agenda := r.agenda }

theorem State.storeRegs_withUnread (n : Nat) (s r : State) :
    State.storeRegs n (s.withUnread r) = (State.storeRegs n s).withUnread r := by
  induction n with
  | zero => rfl
  | succ n ih => rw [State.storeRegs, ih]; rfl

theorem State.loadRegs_withUnread (n : Nat) (s r : State) :
    State.loadRegs n (s.withUnread r) = (State.loadRegs n s).withUnread r := by
  induction n with
  | zero => rfl
  | succ n ih => rw [State.loadRegs, ih]; rfl

theorem State.skipIf_withUnread (s r : State) (c : Bool) :
    (s.withUnread r).skipIf c = (s.skipIf c).withUnread r := by
  rw [State.skipIf_eq, State.skipIf_eq]; rfl

/-- A sprite is read from memory and `I` only (44_display.md R151). -/
theorem drawRows_withUnread (s r : State) (x0 y0 n : Nat) (acc : Display × Bool) :
    drawRows (s.withUnread r) x0 y0 n acc = drawRows s x0 y0 n acc := by
  induction n with
  | zero => rfl
  | succ n ih => rw [drawRows, drawRows, ih]; rfl

/-- An instruction does to the rest of the state what it does whatever the fields of `State.withUnread` hold. -/
theorem exec_withUnread {i : Instr} {s t : State} (h : exec i s = .next t) (r : State) :
    ∃ u, exec i (s.withUnread r) = .next u ∧ u = t.withUnread u := by
  cases i
  case ret =>
    rcases exec_ret_cases h with ⟨hempty, rfl⟩ | ⟨hused, rfl⟩
    · exact ⟨_, exec_ret_of_empty (s.withUnread r) hempty, rfl⟩
    · exact ⟨_, exec_ret_of_used (s.withUnread r) hused, rfl⟩
  case call nnn =>
    rcases exec_call_cases h with ⟨hfull, rfl⟩ | ⟨hroom, rfl⟩
    · exact ⟨_, exec_call_of_full nnn (s.withUnread r) hfull, rfl⟩
    · exact ⟨_, exec_call_of_room nnn (s.withUnread r) hroom, rfl⟩
  case ldVxK x =>
    have hsel : keySelect (s.withUnread r).picks (s.withUnread r).pressedKeys = keySelect s.picks s.pressedKeys := rfl
    simp only [exec, execLdVxK] at h ⊢
    rw [hsel]
    cases hk : keySelect s.picks s.pressedKeys <;>
      (rw [hk] at h; obtain rfl := Host.Outcome.next.inj h; exact ⟨_, rfl, rfl⟩)
  all_goals obtain rfl := Host.Outcome.next.inj h
  case seImm | sneImm | seReg | sneReg | skp | sknp =>
    exact ⟨_, congrArg Host.Outcome.next (State.skipIf_withUnread s r _), rfl⟩
  case dump =>
    simp only [exec, execDump, State.storeRegs_withUnread]
    exact ⟨_, rfl, rfl⟩
  case load =>
    simp only [exec, execLoad, State.loadRegs_withUnread]
    exact ⟨_, rfl, rfl⟩
  case drw =>
    simp only [exec, execDrw, drawRows_withUnread]
    exact ⟨_, rfl, rfl⟩
  all_goals exact ⟨_, rfl, rfl⟩

/-- Settles O59: the rest of the state goes through `exec_withUnread`; the trigger and the agenda no instruction changes. -/
theorem unreadableStateStaysOut : Obligations.UnreadableStateStaysOut := by
  intro i s t st drawn trigger diag agenda h
  obtain ⟨u, hu, hrest⟩ :=
    exec_withUnread h { s with st := st, drawn := drawn, trigger := trigger, diag := diag, agenda := agenda }
  obtain ⟨_, hagenda, _, htrigger⟩ := exec_keepsOutside hu
  exact ⟨u, hu, hrest.trans (by rw [State.withUnread, hagenda, htrigger]; rfl)⟩

end Sys2Proof.Machine
end

section
/-!
Memory: its access, the fetch, and who may write it (20_memory.md R50, R52, R57).
-/

namespace Sys2Proof.Machine

/-- Settles O7: the laws of one byte's read and write (20_memory.md R50). -/
theorem accessMasksAddress : Obligations.AccessMasksAddress :=
  fun s a b v => ⟨(s.readByte_mod a).symm, s.readByte_writeByte a b v⟩

/-- Settles O8: the word of two bytes does not overflow, and both addresses may be reduced (20_memory.md R50, R52). -/
theorem fetchIsBigEndian : Obligations.FetchIsBigEndian := by
  intro s
  rw [State.readByte_mod, State.readByte_mod]
  exact wordOfBytes_toNat _ _

theorem State.readByte_writeByte_of_ne (s : State) {a b : Nat} (v : Byte) (h : b % 4096 ≠ a % 4096) :
    (s.writeByte a v).readByte b = s.readByte b := by
  rw [State.readByte_writeByte, if_neg h]

/-- An instruction that stores no byte leaves memory as it is, a faulting one among them (20_memory.md R57). -/
theorem exec_mem_of_storedBytes_eq_zero {i : Instr} {s t : State} (hi : storedBytes i = 0)
    (h : exec i s = .next t) : t.mem = s.mem := by
  cases i
  case ldB | dump => exact absurd hi (Nat.succ_ne_zero _)
  case ret => rcases exec_ret_cases h with ⟨_, rfl⟩ | ⟨_, rfl⟩ <;> rfl
  case call => rcases exec_call_cases h with ⟨_, rfl⟩ | ⟨_, rfl⟩ <;> rfl
  case ldVxK => rcases exec_ldVxK_cases h with ⟨_, rfl⟩ | ⟨_, _, rfl⟩ <;> rfl
  all_goals obtain rfl := Host.Outcome.next.inj h
  case seImm | sneImm | seReg | sneReg | skp | sknp => rw [State.skipIf_eq]
  case load => rw [State.loadRegs_eq]; rfl
  all_goals rfl

theorem exec_readByte_of_storedBytes_eq_zero {i : Instr} {s t : State} (hi : storedBytes i = 0)
    (h : exec i s = .next t) (a : Nat) : t.readByte a = s.readByte a := by
  obtain ⟨_, _, hfonts, _⟩ := exec_keepsOutside h
  simp only [State.readByte, exec_mem_of_storedBytes_eq_zero hi h, hfonts]

/-- `LD B` writes at `I`, `I + 1` and `I + 2` only (43_index_memory.md R143). -/
theorem exec_ldB_readByte_other {x : Nibble} {s t : State} (h : exec (.ldB x) s = .next t) (a : Nat)
    (ha : ∀ j, j < 3 → a % 4096 ≠ (s.i.toNat + j) % 4096) : t.readByte a = s.readByte a := by
  obtain rfl := Host.Outcome.next.inj h
  rw [State.advance_readByte, State.readByte_writeByte_of_ne _ _ (ha 2 (by decide)),
    State.readByte_writeByte_of_ne _ _ (ha 1 (by decide))]
  exact s.readByte_writeByte_of_ne _ (ha 0 (by decide))

/-- `LD [I], Vx` writes at `I` up to `I + X` only (43_index_memory.md R144). -/
theorem exec_dump_readByte_other {x : Nibble} {s t : State} (h : exec (.dump x) s = .next t) (a : Nat)
    (ha : ∀ j, j < blockLength x → a % 4096 ≠ (s.i.toNat + j) % 4096) : t.readByte a = s.readByte a := by
  obtain rfl := Host.Outcome.next.inj h
  rw [State.advance_readByte, State.setI_readByte, State.readByte_storeRegs_other _ _ _ ha]

/-- Settles O56: the frames of the two writers, and of every instruction that stores nothing. -/
theorem memoryWritersExactly : Obligations.MemoryWritersExactly := by
  intro i s t h a ha
  cases i
  case ldB => exact exec_ldB_readByte_other h a ha
  case dump => exact exec_dump_readByte_other h a ha
  all_goals exact exec_readByte_of_storedBytes_eq_zero rfl h a

end Sys2Proof.Machine
end

section
/-!
The decoder and the encoder undo each other (30_encoding.md R71, R76, R85): a format takes a word's own fields back to the
word, and a word's operation code and secondary field give its arm. From this follow the undefined words (R79) and the
selection of a row by its mask and match.
-/

namespace Sys2Proof

/-! ### A word as the format of its own fields -/

theorem formatA_fieldNNN {w : Word16} {op : Nat} (hop : (fieldOp w).toNat = op) : formatA op (fieldNNN w) = w := by
  subst hop
  apply BitVec.eq_of_toNat_eq
  rw [formatA_toNat (fieldOp w).isLt, fieldOp_toNat, fieldNNN_toNat]; omega

theorem formatXNN_fieldX {w : Word16} {op : Nat} {kk : Byte} (hop : (fieldOp w).toNat = op)
    (hkk : (fieldNN w).toNat = kk.toNat) : formatXNN op (fieldX w) kk = w := by
  subst hop
  apply BitVec.eq_of_toNat_eq
  rw [formatXNN_toNat (fieldOp w).isLt, ← hkk, fieldOp_toNat, fieldX_toNat, fieldNN_toNat]; omega

theorem formatXYN_fieldXY {w : Word16} {op : Nat} {n : Nibble} (hop : (fieldOp w).toNat = op)
    (hn : (fieldN w).toNat = n.toNat) : formatXYN op (fieldX w) (fieldY w) n = w := by
  subst hop
  apply BitVec.eq_of_toNat_eq
  rw [formatXYN_toNat (fieldOp w).isLt, ← hn, fieldOp_toNat, fieldX_toNat, fieldY_toNat, fieldN_toNat]; omega

/-! ### Decoding an encoding -/

/-- A well-formed `SYS` is neither of the two words that family 0 gives to `CLS` and `RET` (30_encoding.md R77). -/
theorem decode0_formatA {nnn : Addr12} (hcls : nnn ≠ 0x0E0#12) (hret : nnn ≠ 0x0EE#12) :
    decode0 (formatA 0x0 nnn) = .sys nnn := by
  obtain ⟨_, hnnn⟩ := fields_formatA (op := 0x0) (by decide) nnn
  have hcls' : formatA 0x0 nnn ≠ 0x00E0#16 := fun e => hcls (by rw [← hnnn, e]; decide)
  have hret' : formatA 0x0 nnn ≠ 0x00EE#16 := fun e => hret (by rw [← hnnn, e]; decide)
  rw [decode0, if_neg hcls', if_neg hret', hnnn]

/-- Settles O1, row by row: each format's fields select the row's arm of the decoder and are its operands. -/
theorem decodeOfEncode : Obligations.DecodeOfEncode := by
  intro i hwf
  cases i
  case sys nnn =>
    obtain ⟨hcls, hret⟩ : nnn ≠ 0x0E0#12 ∧ nnn ≠ 0x0EE#12 := by simpa [WellFormed] using hwf
    simp [encode, decodeWord, fields_formatA, decode0_formatA hcls hret]
  case cls | ret => rfl
  case jp | call | ldI | jpV0 => simp [encode, decodeWord, fields_formatA]
  case seImm | sneImm | ldImm | addImm | rnd => simp [encode, decodeWord, fields_formatXNN]
  case seReg | sneReg | drw => simp [encode, decodeWord, fields_formatXYN]
  case ldReg | orReg | andReg | xorReg | addReg | sub | shr | subn | shl =>
    simp [encode, decodeWord, decode8, fields_formatXYN]
  case skp | sknp => simp [encode, decodeWord, decodeE, fields_formatXNN]
  case ldVxDT | ldVxK | ldDTVx | ldSTVx | addI | ldF | ldB | dump | load =>
    simp [encode, decodeWord, decodeF, fields_formatXNN]

/-- Settles O3: the two bytes are the encoding's, so they decode as it does. -/
theorem decodeReadsTwoBytes : Obligations.DecodeReadsTwoBytes := by
  intro i rest hwf
  refine (decode_two _ _ rest i).mpr ?_
  rw [wordOfBytes_bytes]
  exact decodeOfEncode i hwf

/-- Settles O6, on the words themselves. -/
theorem sampleWordsDecode : Obligations.SampleWordsDecode := by
  unfold Obligations.SampleWordsDecode
  decide

/-! ### Encoding what was decoded -/

theorem encode_decode0 {w : Word16} (hop : (fieldOp w).toNat = 0x0) :
    encode (decode0 w) = w ∧ WellFormed (decode0 w) = true := by
  unfold decode0
  split
  · next hcls => exact ⟨hcls.symm, rfl⟩
  split
  · next hret => exact ⟨hret.symm, rfl⟩
  · next hcls hret =>
    have hw : formatA 0x0 (fieldNNN w) = w := formatA_fieldNNN hop
    have hcls' : fieldNNN w ≠ 0x0E0#12 := fun e => hcls (by rw [← hw, e]; decide)
    have hret' : fieldNNN w ≠ 0x0EE#12 := fun e => hret (by rw [← hw, e]; decide)
    exact ⟨hw, by simp [WellFormed, hcls', hret']⟩

theorem encode_of_decode8 {w : Word16} {i : Instr} (hop : (fieldOp w).toNat = 0x8) (h : decode8 w = .ok i) :
    encode i = w ∧ WellFormed i = true := by
  unfold decode8 at h
  split at h <;> cases h
  all_goals next hn => exact ⟨formatXYN_fieldXY hop hn, rfl⟩

theorem encode_of_decodeE {w : Word16} {i : Instr} (hop : (fieldOp w).toNat = 0xE) (h : decodeE w = .ok i) :
    encode i = w ∧ WellFormed i = true := by
  unfold decodeE at h
  split at h <;> cases h
  all_goals next hkk => exact ⟨formatXNN_fieldX hop hkk, rfl⟩

theorem encode_of_decodeF {w : Word16} {i : Instr} (hop : (fieldOp w).toNat = 0xF) (h : decodeF w = .ok i) :
    encode i = w ∧ WellFormed i = true := by
  unfold decodeF at h
  split at h <;> cases h
  all_goals next hkk => exact ⟨formatXNN_fieldX hop hkk, rfl⟩

/-- Settles O2: each arm of the decoder (`h_1` to `h_16`, in its order) builds an instruction whose format
takes the word's fields back to the word. -/
theorem encodeOfDecode : Obligations.EncodeOfDecode := by
  intro w i h
  unfold decodeWord at h
  split at h
  case h_9 hop => exact encode_of_decode8 hop h
  case h_15 hop => exact encode_of_decodeE hop h
  case h_16 =>
    have hop : (fieldOp w).toNat = 0xF := by have := (fieldOp w).isLt; simp only [imp_false] at *; omega
    exact encode_of_decodeF hop h
  all_goals obtain rfl := Except.ok.inj h
  case h_1 hop => exact encode_decode0 hop
  case h_2 hop | h_3 hop | h_11 hop | h_12 hop => exact ⟨formatA_fieldNNN hop, rfl⟩
  case h_4 hop | h_5 hop | h_7 hop | h_8 hop | h_13 hop => exact ⟨formatXNN_fieldX hop rfl, rfl⟩
  case h_6 hop | h_10 hop | h_14 hop => exact ⟨formatXYN_fieldXY hop rfl, rfl⟩

/-! ### The undefined words -/

theorem decode8_error_iff (w : Word16) :
    (∃ e, decode8 w = .error e) ↔ (fieldN w).toNat ∈ [0x8, 0x9, 0xA, 0xB, 0xC, 0xD, 0xF] := by
  unfold decode8
  split
  case h_10 =>
    have := (fieldN w).isLt
    simp only [Except.error.injEq, exists_eq', List.mem_cons, List.not_mem_nil, true_iff, imp_false] at *
    omega
  all_goals next hn => simp [hn]

theorem decodeE_error_iff (w : Word16) : (∃ e, decodeE w = .error e) ↔ (fieldNN w).toNat ∉ [0x9E, 0xA1] := by
  unfold decodeE
  split
  case h_3 => simp_all
  all_goals next hkk => simp [hkk]

theorem decodeF_error_iff (w : Word16) :
    (∃ e, decodeF w = .error e) ↔
      (fieldNN w).toNat ∉ [0x07, 0x0A, 0x15, 0x18, 0x1E, 0x29, 0x33, 0x55, 0x65] := by
  unfold decodeF
  split
  case h_10 => simp_all
  all_goals next hkk => simp [hkk]

/-- Settles O4: only families 8, E and F reject, each on its secondary field. -/
theorem undefinedWordsExactly : Obligations.UndefinedWordsExactly := by
  intro w
  rw [← fieldOp_toNat, ← fieldN_toNat, ← fieldNN_toNat, ← decode8_error_iff, ← decodeE_error_iff, ← decodeF_error_iff]
  unfold decodeWord
  split
  case h_16 =>
    have hop : (fieldOp w).toNat = 0xF := by have := (fieldOp w).isLt; simp only [imp_false] at *; omega
    simp [hop]
  all_goals next hop => simp [hop]

/-! ### The rows by mask and match -/

/-- A field that a mask keeps can be read off the masked word. -/
theorem extractLsb'_of_and_eq {w m v : Word16} {start len : Nat} (h : w &&& m = v)
    (hm : m.extractLsb' start len = BitVec.allOnes len) : w.extractLsb' start len = v.extractLsb' start len := by
  rw [← h, BitVec.extractLsb'_and, hm, BitVec.and_allOnes]

theorem fieldOp_of_and_eq {w m v : Word16} (h : w &&& m = v) (hm : m.toNat / 4096 = 0xF) :
    (fieldOp w).toNat = v.toNat / 4096 := by
  have hmask : fieldOp m = 0xF#4 := BitVec.eq_of_toNat_eq ((fieldOp_toNat m).trans hm)
  rw [← fieldOp_toNat]
  exact congrArg BitVec.toNat (extractLsb'_of_and_eq h hmask)

theorem fieldN_of_and_eq {w m v : Word16} (h : w &&& m = v) (hm : m.toNat % 16 = 0xF) :
    (fieldN w).toNat = v.toNat % 16 := by
  have hmask : fieldN m = 0xF#4 := BitVec.eq_of_toNat_eq ((fieldN_toNat m).trans hm)
  rw [← fieldN_toNat]
  exact congrArg BitVec.toNat (extractLsb'_of_and_eq h hmask)

theorem fieldNN_of_and_eq {w m v : Word16} (h : w &&& m = v) (hm : m.toNat % 256 = 0xFF) :
    (fieldNN w).toNat = v.toNat % 256 := by
  have hmask : fieldNN m = 0xFF#8 := BitVec.eq_of_toNat_eq ((fieldNN_toNat m).trans hm)
  rw [← fieldNN_toNat]
  exact congrArg BitVec.toNat (extractLsb'_of_and_eq h hmask)

open Laws.RowMatch in
/-- Every encoding selects its own row (30_encoding.md R76). -/
theorem encode_and_rowMask (i : Instr) : encode i &&& (rowMaskMatch i).1 = (rowMaskMatch i).2 := by
  cases i
  exacts [sys _, cls, ret, jp _, call _, seImm _ _, sneImm _ _, seReg _ _ _, ldImm _ _, addImm _ _, ldReg _ _,
    orReg _ _, andReg _ _, xorReg _ _, addReg _ _, sub _ _, shr _ _, subn _ _, shl _ _, sneReg _ _ _, ldI _, jpV0 _,
    rnd _ _, drw _ _ _, skp _, sknp _, ldVxDT _, ldVxK _, ldDTVx _, ldSTVx _, addI _, ldF _, ldB _, dump _, load _]

/-- A word that matches a row decodes to it (30_encoding.md R76): the mask keeps the fields the decoder looks at. -/
theorem decodeWord_of_and_rowMask {w : Word16} {i : Instr} (hm : w &&& (rowMaskMatch i).1 = (rowMaskMatch i).2)
    (hsys : rowMaskMatch i = (0xF000#16, 0x0000#16) → w ≠ 0x00E0#16 ∧ w ≠ 0x00EE#16) :
    ∃ j, decodeWord w = .ok j ∧ rowMaskMatch j = rowMaskMatch i := by
  cases i
  all_goals
    simp only [rowMaskMatch] at hm
    have hop := fieldOp_of_and_eq hm rfl
  case sys => simp [decodeWord, decode0, hop, hsys rfl, rowMaskMatch]
  case cls | ret =>
    have hw : w &&& 0xFFFF#16 = w := BitVec.and_allOnes
    obtain rfl := hw.symm.trans hm
    exact ⟨_, rfl, rfl⟩
  case ldReg | orReg | andReg | xorReg | addReg | sub | shr | subn | shl =>
    have hn := fieldN_of_and_eq hm rfl
    simp [decodeWord, decode8, hop, hn, rowMaskMatch]
  case skp | sknp =>
    have hkk := fieldNN_of_and_eq hm rfl
    simp [decodeWord, decodeE, hop, hkk, rowMaskMatch]
  case ldVxDT | ldVxK | ldDTVx | ldSTVx | addI | ldF | ldB | dump | load =>
    have hkk := fieldNN_of_and_eq hm rfl
    simp [decodeWord, decodeF, hop, hkk, rowMaskMatch]
  all_goals simp [decodeWord, hop, rowMaskMatch]

/-- Settles O5: a decoded word is an encoding, so it matches its row; the two words `SYS` leaves out decode to `CLS` and
`RET`, which have rows of their own. -/
theorem rowsSelectByMask : Obligations.RowsSelectByMask := by
  intro w i
  refine ⟨fun ⟨j, hj, hrow⟩ => ?_, fun ⟨hm, hsys⟩ => decodeWord_of_and_rowMask hm hsys⟩
  obtain ⟨hw, _⟩ := encodeOfDecode w j hj
  rw [← hrow]
  refine ⟨hw ▸ encode_and_rowMask j, fun hsys => ⟨?_, ?_⟩⟩
  all_goals
    rintro rfl
    obtain rfl := Except.ok.inj hj
    exact absurd hsys (by decide)

end Sys2Proof
end

section
/-!
Control transfer: fault entry, jumps, and the call stack (40_flow.md R100 to R104). The frame of each is said once, of the
operation it comes from.
-/

namespace Sys2Proof.Machine

/-! ### Frames -/

theorem State.raise_faultsWith (s : State) (c : Cause) (w : Word16) : FaultsWith c w s (s.raise c w) :=
  ⟨rfl, rfl, rfl, rfl, fun _ => rfl, rfl, ⟨rfl, rfl⟩, ⟨rfl, rfl⟩, fun _ => rfl, ⟨rfl, rfl⟩, ⟨rfl, rfl, rfl⟩, ⟨rfl, rfl⟩⟩

/-- A move of `pc`, of the stack pointer and of the stack entries touches nothing else (10_state.md R23, R36). -/
theorem keepsMachine_setFlow (s : State) (pc : Word16) (sp : Fin 17) (stack : Vector Word16 16) :
    KeepsMachine s { s with pc := pc, sp := sp, stack := stack } :=
  ⟨⟨rfl, rfl⟩, fun _ => rfl, ⟨rfl, rfl⟩, ⟨rfl, rfl, rfl⟩, ⟨rfl, rfl, rfl⟩, ⟨rfl, rfl⟩⟩

theorem State.setPc_keepsBeyondPc (s : State) (a : Nat) : KeepsBeyondPc s (s.setPc a) :=
  ⟨fun _ => rfl, rfl, ⟨rfl, rfl⟩, keepsMachine_setFlow s (addr16 a) s.sp s.stack⟩

/-! ### Faults, each with the word it reports (log 25) -/

theorem encode_sys (nnn : Addr12) : encode (.sys nnn) = BitVec.ofNat 16 nnn.toNat := by
  rw [encode, formatA, Nat.zero_mul, Nat.zero_add]

theorem encode_call (nnn : Addr12) : encode (.call nnn) = BitVec.ofNat 16 (0x2000 + nnn.toNat) := rfl

/-- Settles O24: `SYS` is fault entry alone, with its own encoding as the word. -/
theorem sysFaults : Obligations.SysFaults := by
  intro nnn s
  rw [← encode_sys]
  exact ⟨_, rfl, s.raise_faultsWith .unknownOpcode (encode (.sys nnn))⟩

/-- Settles O28: at its bound of `sp` each of `CALL` and `RET` is fault entry alone. -/
theorem stackFaults : Obligations.StackFaults := by
  intro nnn s
  refine ⟨fun hfull => ?_, fun hempty => ?_⟩
  · rw [← encode_call]
    exact ⟨_, exec_call_of_full nnn s hfull, s.raise_faultsWith .stackOverflow (encode (.call nnn))⟩
  · exact ⟨_, exec_ret_of_empty s hempty, s.raise_faultsWith .stackUnderflow (encode .ret)⟩

/-! ### Jumps -/

/-- Settles O25: a 12-bit target is stored as it stands. -/
theorem jumpSetsPc : Obligations.JumpSetsPc :=
  fun nnn s => ⟨_, rfl, addr16_toNat_addr12 nnn, s.setPc_keepsBeyondPc nnn.toNat⟩

/-- Settles O26: the sum with `V[0]` is reduced as it is stored (D25, log 24). -/
theorem jumpV0AddsRegister : Obligations.JumpV0AddsRegister :=
  fun nnn s => ⟨_, rfl, addr16_toNat _, s.setPc_keepsBeyondPc (nnn.toNat + (s.getV 0x0#4).toNat)⟩

/-! ### Call and return -/

/-- A push writes its one entry, reduced to 12 bits, and no other (10_state.md R36). -/
theorem stack_set_toNat (stack : Vector Word16 16) {n : Nat} (hn : n < 16) (a : Nat) (k : Fin 16) :
    ((stack.set n (addr16 a) hn)[k]).toNat = if k.val = n then a % 4096 else stack[k].toNat := by
  rw [Fin.getElem_fin, Vector.getElem_set]
  by_cases hk : n = k.val
  · rw [if_pos hk, if_pos hk.symm, addr16_toNat]
  · rw [if_neg hk, if_neg (Ne.symm hk), Fin.getElem_fin]

/-- Settles O27: with room a call is one push and one write of `pc`. -/
theorem callPushesReturn : Obligations.CallPushesReturn := fun nnn s hroom =>
  ⟨_, exec_call_of_room nnn s hroom, addr16_toNat_addr12 nnn, rfl, stack_set_toNat s.stack hroom (s.pc.toNat + 2),
    fun _ => rfl, rfl, keepsMachine_setFlow s _ _ _⟩

/-- Settles O29: the entry popped is the one below `sp`, and it is only read. -/
theorem returnPops : Obligations.ReturnPops := by
  intro s k hk
  refine ⟨_, exec_ret_of_used s (by omega), ?_, ?_, rfl, fun _ => rfl, rfl, keepsMachine_setFlow s _ _ s.stack⟩ <;>
    simp [hk]

/-- Settles O30: the call leaves its return address in the entry that the return pops (O27, O29). -/
theorem callThenReturn : Obligations.CallThenReturn := by
  intro nnn s t u v hroom hcall hsp hstack hret
  obtain ⟨_, hcall', _, hpushed, hentry, _⟩ := callPushesReturn nnn s hroom
  obtain rfl := Host.Outcome.next.inj (hcall.symm.trans hcall')
  obtain ⟨_, hret', hpc, hpopped, _, _, _, _, _, _, ⟨halive, _⟩, _⟩ :=
    returnPops u ⟨s.sp.val, hroom⟩ (by rw [hsp, hpushed])
  obtain rfl := Host.Outcome.next.inj (hret.symm.trans hret')
  refine ⟨?_, Fin.ext hpopped, halive⟩
  rw [hpc, hstack, hentry, if_pos rfl, Nat.mod_mod]

end Sys2Proof.Machine
end

section
/-!
The conditional skips (41_skips.md R110 to R115). What a skip does is said once, of any Boolean test and the condition it
decides; each instruction then only names its test.
-/

namespace Sys2Proof.Machine

/-- A taken skip moves `pc` by 4, one not taken by 2, and neither touches anything else (10_state.md R25). -/
theorem State.skipIf_skipsWhen (s : State) {b : Bool} {c : Prop} (hb : b = true ↔ c) : SkipsWhen c s (s.skipIf b) := by
  cases b
  case true =>
    have hc : c := hb.mp rfl
    exact ⟨fun _ => addr16_toNat _, fun hnc => absurd hc hnc, s.setPc_keepsBeyondPc (s.pc.toNat + 4)⟩
  case false =>
    have hnc : ¬ c := fun hc => Bool.false_ne_true (hb.mpr hc)
    exact ⟨fun hc => absurd hc hnc, fun _ => addr16_toNat _, s.setPc_keepsBeyondPc (s.pc.toNat + 2)⟩

/-- Settles O31: the test is `V[X] == NN`. -/
theorem skipIfEqualByte : Obligations.SkipIfEqualByte :=
  fun _ _ s => ⟨_, rfl, s.skipIf_skipsWhen beq_iff_eq⟩

/-- Settles O32: no test reads the ignored low field (D3, log 14). -/
theorem skipOtherComparisons : Obligations.SkipOtherComparisons := fun _ _ _ _ s =>
  ⟨⟨_, rfl, s.skipIf_skipsWhen bne_iff_ne⟩, ⟨_, rfl, s.skipIf_skipsWhen beq_iff_eq⟩,
    ⟨_, rfl, s.skipIf_skipsWhen bne_iff_ne⟩⟩

/-- Settles O33: the key tested is the one `lowNibble` selects, the value modulo 16 (D14, log 22). -/
theorem skipOnKey : Obligations.SkipOnKey := by
  intro x s
  rw [← lowNibble_eq]
  exact ⟨⟨_, rfl, s.skipIf_skipsWhen Iff.rfl⟩, ⟨_, rfl, s.skipIf_skipsWhen (Bool.not_eq_true' _).to_iff⟩⟩

end Sys2Proof.Machine
end

section
/-!
Register loads, arithmetic, logic, shifts and random (42_alu.md R120 to R132). What the two shapes of a register write do to
the whole state is said once, for any result and flag; each operation on bytes has its law on naturals; an instruction only
puts the two together.
-/

namespace Sys2Proof.Machine

/-! ### The operations on bytes as exact arithmetic (42_alu.md R132) -/

theorem addByte_toNat (a b : Byte) : (addByte a b).toNat = (a.toNat + b.toNat) % 256 := BitVec.toNat_ofNat _ _

theorem subByte_toNat (a b : Byte) : (subByte a b).toNat = (a.toNat + 256 - b.toNat) % 256 := BitVec.toNat_ofNat _ _

theorem shrByte_toNat (a : Byte) : (shrByte a).toNat = a.toNat / 2 :=
  (BitVec.toNat_ofNat _ _).trans (Nat.mod_eq_of_lt ((Nat.div_le_self _ 2).trans_lt a.isLt))

theorem shlByte_toNat (a : Byte) : (shlByte a).toNat = a.toNat * 2 % 256 := BitVec.toNat_ofNat _ _

theorem flagByte_carryOf_toNat (a b : Byte) :
    (flagByte (carryOf a b)).toNat = if a.toNat + b.toNat > 255 then 1 else 0 := by
  simp only [flagByte_toNat, carryOf, decide_eq_true_eq]

theorem flagByte_noBorrowOf_toNat (a b : Byte) :
    (flagByte (noBorrowOf a b)).toNat = if a.toNat < b.toNat then 0 else 1 := by
  simp only [flagByte_toNat, noBorrowOf, decide_eq_true_eq, ← Nat.not_lt, ite_not]

/-- A bit as a flag is that bit as a number. -/
theorem flagByte_getLsbD_toNat (a : Byte) (j : Nat) : (flagByte (a.getLsbD j)).toNat = a.toNat / 2 ^ j % 2 := by
  rw [flagByte_toNat, ← Bool.cond_eq_ite]
  exact Nat.toNat_testBit a.toNat j

theorem flagByte_shrOut_toNat (a : Byte) : (flagByte (shrOut a)).toNat = a.toNat % 2 :=
  (flagByte_getLsbD_toNat a 0).trans (by rw [pow_zero, Nat.div_one])

theorem flagByte_shlOut_toNat (a : Byte) : (flagByte (shlOut a)).toNat = a.toNat / 128 :=
  (flagByte_getLsbD_toNat a 7).trans (Nat.mod_eq_of_lt (Nat.div_lt_of_lt_mul a.isLt))

/-! ### The two shapes of a register write, with their frames -/

/-- A change of the registers and of `pc` touches nothing else (10_state.md R20, R23). -/
theorem keepsBeyondV_setRegisters (s : State) (v : Vector Byte 16) (pc : Word16) :
    KeepsBeyondV s { s with v := v, pc := pc } :=
  ⟨rfl, ⟨rfl, rfl⟩, ⟨rfl, rfl⟩, fun _ => rfl, ⟨rfl, rfl⟩, ⟨rfl, rfl, rfl⟩, ⟨rfl, rfl, rfl⟩, ⟨rfl, rfl⟩⟩

/-- One register written, then the generic advance (10_state.md R21, R25). -/
theorem State.setV_advance_spec (s : State) (x : Nibble) (b : Byte) :
    (∀ k, (s.setV x b).advance.getV k = if k = x then b else s.getV k) ∧
    Advances s (s.setV x b).advance ∧ KeepsBeyondV s (s.setV x b).advance :=
  ⟨fun k => s.getV_setV x k b, (s.setV x b).advance_pc_toNat, keepsBeyondV_setRegisters s _ _⟩

/-- A register written with a result whose bits are known (42_alu.md R123 to R125). -/
theorem State.setLogic_advance_spec (s : State) (x : Nibble) {b : Byte} {bits : Nat → Bool}
    (hb : ∀ j, b.getLsbD j = bits j) :
    (∀ k, k ≠ x → (s.setLogic x b).advance.getV k = s.getV k) ∧
    (∀ j, ((s.setLogic x b).advance.getV x).getLsbD j = bits j) ∧
    Advances s (s.setLogic x b).advance ∧ KeepsBeyondV s (s.setLogic x b).advance := by
  obtain ⟨hv, hframe⟩ := s.setV_advance_spec x b
  rw [State.setLogic_eq]
  refine ⟨fun k hk => (hv k).trans (if_neg hk), fun j => ?_, hframe⟩
  rw [hv, if_pos rfl, hb]

/-- Result first, flag last, then the generic advance: with `X = 15` the flag stays (10_state.md R29; D9, log 18). -/
theorem State.setResultFlag_advance_spec (s : State) (x : Nibble) {r : Byte} {f : Bool} {result flag : Nat}
    (hr : r.toNat = result) (hf : (flagByte f).toNat = flag) :
    (∀ k, ((s.setResultFlag x r f).advance.getV k).toNat =
      if k = 0xF#4 then flag else if k = x then result else (s.getV k).toNat) ∧
    Advances s (s.setResultFlag x r f).advance ∧ KeepsBeyondV s (s.setResultFlag x r f).advance := by
  refine ⟨fun k => ?_, (s.setResultFlag x r f).advance_pc_toNat, keepsBeyondV_setRegisters s _ _⟩
  rw [State.advance_getV, State.getV_setResultFlag, apply_ite BitVec.toNat, apply_ite BitVec.toNat, hr, hf]

/-! ### The instructions -/

/-- Settles O34: each load is one register write. -/
theorem loadsSetRegister : Obligations.LoadsSetRegister := fun x y kk s =>
  ⟨⟨_, rfl, s.setV_advance_spec x kk⟩, ⟨_, rfl, s.setV_advance_spec x (s.getV y)⟩⟩

/-- Settles O35: one register write, of the sum modulo 256; no flag (D11, log 20). -/
theorem addImmediate : Obligations.AddImmediate := by
  intro x kk s
  obtain ⟨hv, hframe⟩ := s.setV_advance_spec x (addByte (s.getV x) kk)
  refine ⟨_, rfl, fun k => ?_, hframe⟩
  rw [hv, apply_ite BitVec.toNat, addByte_toNat]

/-- Settles O36: one register write, of a byte known bit by bit; no flag (D11, log 20). -/
theorem logicBitwise : Obligations.LogicBitwise := fun x _ s =>
  ⟨⟨_, rfl, s.setLogic_advance_spec x fun _ => BitVec.getLsbD_or⟩,
    ⟨_, rfl, s.setLogic_advance_spec x fun _ => BitVec.getLsbD_and⟩,
    ⟨_, rfl, s.setLogic_advance_spec x fun _ => BitVec.getLsbD_xor⟩⟩

/-- Settles O37: the flag is the carry of the operands as they were, `V[Y]` the old `VF` with `Y = 15` (D9, log 18). -/
theorem addSetsCarry : Obligations.AddSetsCarry := fun x _ s =>
  ⟨_, rfl, s.setResultFlag_advance_spec x (addByte_toNat _ _) (flagByte_carryOf_toNat _ _)⟩

/-- Settles O38: the flag is not borrow of `V[X] - V[Y]`. -/
theorem subSetsNotBorrow : Obligations.SubSetsNotBorrow := fun x _ s =>
  ⟨_, rfl, s.setResultFlag_advance_spec x (subByte_toNat _ _) (flagByte_noBorrowOf_toNat _ _)⟩

/-- Settles O39: `SUB` with the operands exchanged, into the same register. -/
theorem reverseSubSetsNotBorrow : Obligations.ReverseSubSetsNotBorrow := fun x _ s =>
  ⟨_, rfl, s.setResultFlag_advance_spec x (subByte_toNat _ _) (flagByte_noBorrowOf_toNat _ _)⟩

/-- Settles O40: the source of a shift is `V[X]` itself (D10, log 19), and the flag its lowest or its highest bit. -/
theorem shiftsSetBitOut : Obligations.ShiftsSetBitOut := fun x _ s =>
  ⟨⟨_, rfl, s.setResultFlag_advance_spec x (shrByte_toNat _) (flagByte_shrOut_toNat _)⟩,
    ⟨_, rfl, s.setResultFlag_advance_spec x (shlByte_toNat _) (flagByte_shlOut_toNat _)⟩⟩

/-- Settles O41: the byte is the one `State.drawByte` answers, and after the draw there is one register write (log 4). -/
theorem randomIsMasked : Obligations.RandomIsMasked := by
  intro x kk s
  obtain ⟨hv, hpc, hi, hstack, htimers, hmem, hdisp, hstatus, hhost, hdraws, hpicks⟩ :=
    s.drawByte.2.setV_advance_spec x (s.drawByte.1 &&& kk)
  exact ⟨s.drawByte.1, _, rfl, hv, hdraws, hpicks, hpc, hi, hstack, htimers, hmem, hdisp, hstatus, hhost⟩

end Sys2Proof.Machine
end

section
/-!
The index register and the moves between registers and memory (43_index_memory.md R140 to R145). The frames are said once, of
the fields these instructions write: `I` and `pc` always, and either the general registers or memory.
-/

namespace Sys2Proof.Machine

/-! ### Frames -/

/-- A change of the general registers, `I` and `pc` touches nothing else (10_state.md R20, R23, R34). -/
theorem keepsStack_and_machine_setIndex (s : State) (v : Vector Byte 16) (i pc : Word16) :
    KeepsStack s { s with v := v, i := i, pc := pc } ∧ KeepsMachine s { s with v := v, i := i, pc := pc } :=
  ⟨⟨rfl, rfl⟩, ⟨rfl, rfl⟩, fun _ => rfl, ⟨rfl, rfl⟩, ⟨rfl, rfl, rfl⟩, ⟨rfl, rfl, rfl⟩, ⟨rfl, rfl⟩⟩

/-- Everything but memory, `I` and `pc`. -/
def KeepsBeyondMemory (s t : State) : Prop :=
  KeepsV s t ∧ KeepsStack s t ∧ KeepsTimers s t ∧ KeepsDisplay s t ∧ KeepsStatus s t ∧ KeepsHost s t ∧ KeepsFree s t

/-- A change of memory, `I` and `pc` touches nothing else (10_state.md R23, R31, R34). -/
theorem keepsBeyondMemory_setMemory (s : State) (mem : Memory) (i pc : Word16) :
    KeepsBeyondMemory s { s with mem := mem, i := i, pc := pc } :=
  ⟨fun _ => rfl, ⟨rfl, rfl⟩, ⟨rfl, rfl⟩, ⟨rfl, rfl⟩, ⟨rfl, rfl, rfl⟩, ⟨rfl, rfl, rfl⟩, ⟨rfl, rfl⟩⟩

/-! ### Setters of `I` -/

/-- A write of `I`, then the generic advance (10_state.md R25, R34). -/
theorem State.setI_advance_spec (s : State) {a n : Nat} (ha : (addr16 a).toNat = n) :
    (s.setI a).advance.i.toNat = n ∧ Advances s (s.setI a).advance ∧ KeepsV s (s.setI a).advance ∧
    KeepsStack s (s.setI a).advance ∧ KeepsMachine s (s.setI a).advance :=
  ⟨ha, (s.setI a).advance_pc_toNat, fun _ => rfl, keepsStack_and_machine_setIndex s s.v _ _⟩

/-- The glyphs lie from address 0 on, five bytes each (43_index_memory.md R142; D14, log 22). -/
theorem addr16_glyphAddr_toNat (b : Byte) : (addr16 (glyphAddr (lowNibble b))).toNat = 5 * (b.toNat % 16) := by
  rw [addr16_toNat, glyphAddr, lowNibble_toNat, Config.fontLoBase, Config.fontLoGlyphBytes]
  omega

/-- Settles O42: each is one write of `I`, of an address, a sum reduced as it is stored, or a glyph's address. -/
theorem indexSetters : Obligations.IndexSetters := fun _ nnn s =>
  ⟨⟨_, rfl, s.setI_advance_spec (addr16_toNat_addr12 nnn)⟩, ⟨_, rfl, s.setI_advance_spec (addr16_toNat _)⟩,
    ⟨_, rfl, s.setI_advance_spec (addr16_glyphAddr_toNat _)⟩⟩

/-! ### Decimal digits -/

theorem bcdHundreds_toNat (a : Byte) : (bcdHundreds a).toNat = a.toNat / 100 :=
  (BitVec.toNat_ofNat _ _).trans (Nat.mod_eq_of_lt ((Nat.div_le_self _ 100).trans_lt a.isLt))

theorem bcdTens_toNat (a : Byte) : (bcdTens a).toNat = a.toNat / 10 % 10 :=
  (BitVec.toNat_ofNat _ _).trans (Nat.mod_eq_of_lt (by omega))

theorem bcdUnits_toNat (a : Byte) : (bcdUnits a).toNat = a.toNat % 10 :=
  (BitVec.toNat_ofNat _ _).trans (Nat.mod_eq_of_lt (by omega))

theorem State.readByte_writeByte_same (s : State) (a : Nat) (b : Byte) : (s.writeByte a b).readByte a = b := by
  rw [State.readByte_writeByte, if_pos rfl]

/-- The three digits are in memory after the last store: their addresses differ, wrapped or not (43_index_memory.md R143,
20_memory.md R56). -/
theorem exec_ldB_readByte {x : Nibble} {s t : State} (h : exec (.ldB x) s = .next t) :
    t.readByte s.i.toNat = bcdHundreds (s.getV x) ∧ t.readByte (s.i.toNat + 1) = bcdTens (s.getV x) ∧
    t.readByte (s.i.toNat + 2) = bcdUnits (s.getV x) := by
  obtain rfl := Host.Outcome.next.inj h
  refine ⟨?_, ?_, State.readByte_writeByte_same _ _ _⟩
  · rw [State.advance_readByte, State.readByte_writeByte_of_ne _ _ (by omega),
      State.readByte_writeByte_of_ne _ _ (by omega), State.readByte_writeByte_same]
  · rw [State.advance_readByte, State.readByte_writeByte_of_ne _ _ (by omega), State.readByte_writeByte_same]

/-- Settles O43: three bytes stored side by side, each a digit of the register. -/
theorem bcdStoresDigits : Obligations.BcdStoresDigits := by
  intro x s
  obtain ⟨t, h⟩ : ∃ t, exec (.ldB x) s = .next t := exec_completes _ s
  obtain ⟨hhundreds, htens, hunits⟩ := exec_ldB_readByte h
  refine ⟨t, h, ?_, ?_, ?_, exec_ldB_readByte_other h, ?_⟩
  · rw [hhundreds, bcdHundreds_toNat]
  · rw [htens, bcdTens_toNat]
  · rw [hunits, bcdUnits_toNat]
  · obtain rfl := Host.Outcome.next.inj h
    obtain ⟨hv, hframe⟩ := keepsBeyondMemory_setMemory s _ s.i _
    exact ⟨State.advance_pc_toNat _, hv, rfl, hframe⟩

/-! ### Block moves -/

/-- A dump writes memory, `I` and `pc` (43_index_memory.md R144; D22, log 23). -/
theorem exec_dump_eq (x : Nibble) (s : State) : exec (.dump x) s = .next
    { s with
      mem := (State.storeRegs (blockLength x) s).mem
      i := addr16 (s.i.toNat + blockLength x)
      pc := addr16 (s.pc.toNat + 2) } := by
  simp only [exec, execDump]
  rw [State.storeRegs_eq]; rfl

/-- A load writes the general registers, `I` and `pc` (43_index_memory.md R145; D22, log 23). -/
theorem exec_load_eq (x : Nibble) (s : State) : exec (.load x) s = .next
    { s with
      v := (State.loadRegs (blockLength x) s).v
      i := addr16 (s.i.toNat + blockLength x)
      pc := addr16 (s.pc.toNat + 2) } := by
  simp only [exec, execLoad]
  rw [State.loadRegs_eq]; rfl

theorem exec_dump_readByte {x k : Nibble} {s t : State} (h : exec (.dump x) s = .next t) (hk : k.toNat ≤ x.toNat) :
    t.readByte (s.i.toNat + k.toNat) = s.getV k := by
  obtain rfl := Host.Outcome.next.inj h
  rw [State.advance_readByte, State.setI_readByte,
    State.readByte_storeRegs (blockLength x) x.isLt s k.toNat (Nat.lt_succ_of_le hk), BitVec.ofNat_toNat,
    BitVec.setWidth_eq]

theorem exec_load_getV {x : Nibble} {s t : State} (h : exec (.load x) s = .next t) (k : Nibble) :
    t.getV k = if k.toNat ≤ x.toNat then s.readByte (s.i.toNat + k.toNat) else s.getV k := by
  obtain rfl := Host.Outcome.next.inj h
  rw [State.advance_getV, State.setI_getV, State.getV_loadRegs (blockLength x) x.isLt]
  simp only [blockLength, Nat.lt_succ_iff]

/-- Settles O44: `V[0..X]` are stored and nothing else, then `I` moves past them. -/
theorem dumpStoresRegisters : Obligations.DumpStoresRegisters := by
  intro x s
  have h := exec_dump_eq x s
  exact ⟨_, h, fun _ hk => exec_dump_readByte h hk,
    fun a ha => exec_dump_readByte_other h a fun j hj => ha j (Nat.le_of_lt_succ hj),
    addr16_toNat _, addr16_toNat _, keepsBeyondMemory_setMemory s _ _ _⟩

/-- Settles O45: `V[0..X]` are loaded and nothing else, then `I` moves past the bytes. -/
theorem loadFillsRegisters : Obligations.LoadFillsRegisters := by
  intro x s
  have h := exec_load_eq x s
  exact ⟨_, h, exec_load_getV h, addr16_toNat _, addr16_toNat _, keepsStack_and_machine_setIndex s _ _ _⟩

/-- Settles O46: the load reads the bytes the dump stored (O44, O45), and both move `I` by `X + 1`. -/
theorem dumpThenLoadRestores : Obligations.DumpThenLoadRestores := by
  intro x s t u v hdump hmem hfonts hi hload
  obtain ⟨_, hdump', hstored, _, hti, _⟩ := dumpStoresRegisters x s
  obtain rfl := Host.Outcome.next.inj (hdump.symm.trans hdump')
  obtain ⟨_, hload', hfilled, hvi, _⟩ := loadFillsRegisters x u
  obtain rfl := Host.Outcome.next.inj (hload.symm.trans hload')
  refine ⟨fun k hk => ?_, BitVec.eq_of_toNat_eq (by rw [hvi, hti, hi])⟩
  calc v.getV k = u.readByte (u.i.toNat + k.toNat) := (hfilled k).trans (if_pos hk)
    _ = t.readByte (s.i.toNat + k.toNat) := by simp only [State.readByte, hmem, hfonts, hi]
    _ = s.getV k := hstored k hk

end Sys2Proof.Machine
end

section
/-!
The display instructions (44_display.md R150 to R155). The frame both share is said once; what `DRW` does to a cell and to
`VF` is the law of `drawRows`, read off the state `exec` answers. Where a sprite can lie is its own fact: every 1 bit of it
falls on some cell.
-/

namespace Sys2Proof.Machine

/-! ### The frame -/

/-- Everything but the general registers, the display, the dirty flag and `pc`. -/
def KeepsBeyondDisplay (s t : State) : Prop :=
  t.i = s.i ∧ KeepsStack s t ∧ KeepsTimers s t ∧ KeepsMemory s t ∧ KeepsStatus s t ∧ KeepsHost s t ∧ KeepsFree s t

/-- A change of the registers, the display, the dirty flag and `pc` touches nothing else (10_state.md R20, R23, R40, R42). -/
theorem keepsBeyondDisplay_setDisplay (s : State) (v : Vector Byte 16) (disp : Display) (drawn : Bool) (pc : Word16) :
    KeepsBeyondDisplay s { s with v := v, disp := disp, drawn := drawn, pc := pc } :=
  ⟨rfl, ⟨rfl, rfl⟩, ⟨rfl, rfl⟩, fun _ => rfl, ⟨rfl, rfl, rfl⟩, ⟨rfl, rfl, rfl⟩, ⟨rfl, rfl⟩⟩

/-- Settles O47: the blank display and the dirty flag are written, no register is. -/
theorem clearScreen : Obligations.ClearScreen := fun s =>
  ⟨_, rfl, cell_blankDisplay, rfl, State.advance_pc_toNat _, fun _ => rfl, keepsBeyondDisplay_setDisplay s s.v _ _ _⟩

/-! ### One draw -/

section
variable {x y n : Nibble} {s t : State} (h : exec (.drw x y n) s = .next t)
include h

/-- A cell flips where the sprite covers it (44_display.md R151 to R153; D12, log 21). -/
theorem exec_drw_cell (px : Fin 64) (py : Fin 32) :
    cell t.disp px py =
      Bool.xor (cell s.disp px py) (spriteCovers s (s.getV x).toNat (s.getV y).toNat n.toNat px py) := by
  obtain rfl := Host.Outcome.next.inj h
  exact cell_drawRows s _ _ _ (by omega) (s.disp, false) px py

/-- `VF` is the collision, every other register is as it was (10_state.md R29; D9, log 18). -/
theorem exec_drw_getV (k : Nibble) :
    t.getV k = if k = 0xF#4 then
      flagByte (drawRows s (s.getV x).toNat (s.getV y).toNat n.toNat (s.disp, false)).2 else s.getV k := by
  obtain rfl := Host.Outcome.next.inj h
  exact State.getV_setV _ _ _ _

/-- A draw collides exactly where the sprite covers a cell that is on (44_display.md R151, R155). -/
theorem exec_drw_getV_flag_eq_one :
    t.getV 0xF#4 = 0x01#8 ↔ ∃ px py, cell s.disp px py = true ∧
      spriteCovers s (s.getV x).toNat (s.getV y).toNat n.toNat px py = true := by
  rw [exec_drw_getV h, if_pos rfl, flagByte_eq_one, drawRows_collides s _ _ _ (by omega)]
  exact or_iff_right Bool.false_ne_true

end

/-- Settles O48: the sprite's law on cells and on the collision, then the frame. -/
theorem drawFlipsCoveredCells : Obligations.DrawFlipsCoveredCells := by
  intro x y n s
  obtain ⟨t, h⟩ : ∃ t, exec (.drw x y n) s = .next t := exec_completes _ s
  have hflag : t.getV 0xF#4 = 0x00#8 ∨ t.getV 0xF#4 = 0x01#8 := by
    rw [exec_drw_getV h, if_pos rfl]; exact flagByte_cases _
  have hother : ∀ k, k ≠ 0xF#4 → t.getV k = s.getV k := fun k hk => (exec_drw_getV h k).trans (if_neg hk)
  refine ⟨t, h, exec_drw_cell h, hflag, exec_drw_getV_flag_eq_one h, hother, ?_⟩
  obtain rfl := Host.Outcome.next.inj h
  exact ⟨rfl, State.advance_pc_toNat _, keepsBeyondDisplay_setDisplay s _ _ _ _⟩

/-! ### Where a sprite lies -/

/-- What a sprite covers depends on memory and `I` only (44_display.md R151). -/
theorem spriteCovers_congr {s u : State} (hmem : u.mem = s.mem) (hfonts : u.fonts = s.fonts) (hi : u.i = s.i) :
    spriteCovers u = spriteCovers s := by
  funext x0 y0 n px py
  simp only [spriteCovers_eq, State.readByte, hmem, hfonts, hi]

/-- The 1 bit `j` of sprite row `r` lies over the cell its wrapped coordinates name (44_display.md R152, R153; D12, log 21). -/
theorem spriteCovers_of_bit {s : State} {n r j : Nat} (x0 y0 : Nat) (hn : n ≤ 32) (hr : r < n) (hj : j < 8)
    (hbit : (s.readByte (s.i.toNat + r)).getLsbD j = true) :
    spriteCovers s x0 y0 n (wrapColumn (x0 + (7 - j))) (wrapRow (y0 + r)) = true := by
  have hcol := (spriteColumn_eq (x0 := x0) (show 7 - j < 64 by omega) _).1 rfl
  have hrow := (spriteRow_eq (y0 := y0) (show r < 32 by omega) _).1 rfl
  have hlt : 7 - j < 8 := by omega
  rw [spriteCovers_eq, hcol, hrow, Nat.sub_sub_self (Nat.le_of_lt_succ hj), hbit]
  simp [hr, hlt]

/-- A sprite of at most 32 rows covers some cell exactly when one of its bytes has a 1 bit (44_display.md R152; D12). -/
theorem exists_spriteCovers_iff (s : State) (x0 y0 : Nat) {n : Nat} (hn : n ≤ 32) :
    (∃ px py, spriteCovers s x0 y0 n px py = true) ↔ ∃ r, r < n ∧ s.readByte (s.i.toNat + r) ≠ 0x00#8 := by
  constructor
  · rintro ⟨px, py, hcovers⟩
    simp only [spriteCovers_eq, Bool.and_eq_true, decide_eq_true_eq] at hcovers
    obtain ⟨⟨hr, _⟩, hbit⟩ := hcovers
    exact ⟨_, hr, fun hzero => by simp [hzero] at hbit⟩
  · rintro ⟨r, hr, hbyte⟩
    obtain ⟨j, hj, hbit⟩ : ∃ j, j < 8 ∧ (s.readByte (s.i.toNat + r)).getLsbD j = true := by
      simpa [BitVec.eq_of_getLsbD_eq_iff] using hbyte
    exact ⟨_, _, spriteCovers_of_bit x0 y0 hn hr hj hbit⟩

/-! ### Two draws -/

/-- Settles O49: the second draw covers the same cells, so each is flipped twice, and it finds on exactly those that were
off. -/
theorem drawTwiceRestores : Obligations.DrawTwiceRestores := by
  intro x y n s t u v hdraw hdisp hmem hfonts hi hx hy hagain
  have hcells : ∀ px py, cell u.disp px py =
      Bool.xor (cell s.disp px py) (spriteCovers s (s.getV x).toNat (s.getV y).toNat n.toNat px py) := by
    rw [hdisp]; exact exec_drw_cell hdraw
  have hcovers := spriteCovers_congr hmem hfonts hi
  have hsecond : v.getV 0xF#4 = 0x01#8 ↔ ∃ px py, cell s.disp px py = false ∧
      spriteCovers s (s.getV x).toNat (s.getV y).toNat n.toNat px py = true := by
    rw [exec_drw_getV_flag_eq_one hagain, hcovers, hx, hy]
    refine exists₂_congr fun px py => and_congr_left fun hc => ?_
    rw [hcells, hc, Bool.xor_true, Bool.not_eq_true']
  refine ⟨display_ext _ _ fun px py => ?_, hsecond, fun hoff => ?_⟩
  · rw [exec_drw_cell hagain, hcovers, hx, hy, hcells, Bool.xor_assoc, Bool.xor_self, Bool.xor_false]
  · rw [hsecond, ← exists_spriteCovers_iff s (s.getV x).toNat (s.getV y).toNat (by omega)]
    simp only [hoff, true_and]

end Sys2Proof.Machine
end

section
/-!
The timer instructions and the key-wait (45_timers_keys.md R160 to R163). The frame of a timer write is said once; a write of
a register is `State.setV_advance_spec`; the key-wait is read off its two cases, which exclude each other.
-/

namespace Sys2Proof.Machine

/-! ### Timers -/

/-- Everything but the two timers and `pc`. -/
def KeepsBeyondTimers (s t : State) : Prop :=
  KeepsV s t ∧ t.i = s.i ∧ KeepsStack s t ∧ KeepsMemory s t ∧ KeepsDisplay s t ∧ KeepsStatus s t ∧ KeepsHost s t ∧
  KeepsFree s t

/-- A change of the timers and of `pc` touches nothing else (10_state.md R23; 45_timers_keys.md R162, R163). -/
theorem keepsBeyondTimers_setTimers (s : State) (dt st : Byte) (pc : Word16) :
    KeepsBeyondTimers s { s with dt := dt, st := st, pc := pc } :=
  ⟨fun _ => rfl, rfl, ⟨rfl, rfl⟩, fun _ => rfl, ⟨rfl, rfl⟩, ⟨rfl, rfl, rfl⟩, ⟨rfl, rfl, rfl⟩, ⟨rfl, rfl⟩⟩

/-- Settles O50: one register write, of `DT`, and two timer writes, of `V[X]`, each of which leaves the other timer. -/
theorem timerMoves : Obligations.TimerMoves := by
  intro x s
  refine ⟨⟨_, rfl, s.setV_advance_spec x s.dt⟩, ⟨_, rfl, ?setDT⟩, ⟨_, rfl, ?setST⟩⟩
  case setDT => exact ⟨rfl, rfl, State.advance_pc_toNat _, keepsBeyondTimers_setTimers s (s.getV x) s.st _⟩
  case setST => exact ⟨rfl, rfl, State.advance_pc_toNat _, keepsBeyondTimers_setTimers s s.dt (s.getV x) _⟩

/-! ### The key-wait -/

/-- Settles O51: the case with a pressed key is excluded. -/
theorem keyWaitHolds : Obligations.KeyWaitHolds := by
  intro x s hnone
  obtain ⟨t, h⟩ := exec_completes (.ldVxK x) s
  rcases exec_ldVxK_cases h with ⟨_, rfl⟩ | ⟨k, hk, _⟩
  · exact h
  · exact absurd hk (Bool.eq_false_iff.mp (hnone k))

/-- Settles O52: the case with no key is excluded, and after the choice is counted there is one register write (D15,
log 5). -/
theorem keyWaitRecords : Obligations.KeyWaitRecords := by
  rintro x s ⟨j, hj⟩
  obtain ⟨t, h⟩ := exec_completes (.ldVxK x) s
  rcases exec_ldVxK_cases h with ⟨hnone, _⟩ | ⟨k, hk, rfl⟩
  · exact absurd hj (Bool.eq_false_iff.mp (hnone j))
  · obtain ⟨hv, hpc, hi, hstack, htimers, hmem, hdisp, hstatus, hhost, hdraws, hpicks⟩ :=
      State.setV_advance_spec { s with picks := s.picks + 1 } x (BitVec.ofNat 8 k.toNat)
    exact ⟨k, _, h, hk, hv, hpc, hi, hstack, htimers, hmem, hdisp, hstatus, hhost, hdraws, hpicks⟩

end Sys2Proof.Machine
end

section
/-!
The cycle and its faults (60_exceptions.md R171 to R176, R192, R195): the host's turn, the halted state, and fault entry.
Each rule is read off `step_cases` and what a word run does to the run's status.
-/

namespace Sys2Proof.Machine

/-! ### The host's turn -/

/-- What an action of the host does to the dirty flag (60_exceptions.md R192; 10_state.md R40). -/
theorem State.drawn_hostEvent (s : State) (e : HostEvent) :
    (s.hostEvent e).drawn =
      match e with
      | .pressKey _ | .releaseKey _ => s.drawn
      | .clearDrawn => false := by
  cases e <;> rfl

/-- Settles O14: one action by its two laws, the order of actions by the shape of the agenda, the frame by
`hostTurn_cases`. -/
theorem hostTurnFrame : Obligations.HostTurnFrame := by
  refine ⟨fun s k j => ?oneAction, fun s => s.hostTurn_of_nil, fun s rest => s.hostTurn_of_nil_cons,
    fun s e events rest => s.hostTurn_of_cons, fun s => ?frame⟩
  case oneAction =>
    exact ⟨s.keyDown_hostEvent (.pressKey k) j, s.keyDown_hostEvent (.releaseKey k) j, s.keyDown_hostEvent .clearDrawn j,
      s.drawn_hostEvent (.pressKey k), s.drawn_hostEvent (.releaseKey k), s.drawn_hostEvent .clearDrawn⟩
  case frame =>
    obtain ⟨key, drawn, he, hd⟩ := s.hostTurn_cases
    rw [he]; exact ⟨rfl, hd⟩

/-! ### The next instruction -/

theorem State.nextInstr_eq_some_iff {s : State} {i : Instr} :
    s.nextInstr = some i ↔ decodeWord s.fetchWord = .ok i := by
  unfold State.nextInstr
  cases decodeWord s.fetchWord <;> simp

theorem State.nextInstr_eq_none_iff {s : State} :
    s.nextInstr = none ↔ ∃ e, decodeWord s.fetchWord = .error e := by
  unfold State.nextInstr
  cases decodeWord s.fetchWord <;> simp

/-! ### The halted state -/

/-- A cycle request in the halted state, as an equation (60_exceptions.md R176). -/
theorem step_of_halted {s : State} (ha : s.alive = false) : step s = .next s.hostTurn.clearTrigger := by
  unfold step cycle
  rw [State.hostTurn_alive, ha]; rfl

theorem State.clearTrigger_eq_self {s : State} (ht : s.trigger = false) : s.clearTrigger = s := by
  rw [State.clearTrigger, ← ht]

/-- Settles O17: the halted request clears the trigger, which is nothing to do when it is 0. -/
theorem haltedCycleChangesNothing : Obligations.HaltedCycleChangesNothing := by
  intro s ha
  refine ⟨step_of_halted ha, fun ht => ?_⟩
  rw [step_of_halted ha, State.clearTrigger_eq_self (s.hostTurn_trigger.trans ht)]

/-- A word run leaves the run's status alone, or it halts the run (60_exceptions.md R174, R178). -/
theorem runWord_status {w : Word16} {s t : State} (h : runWord w s = .next t) :
    (t.alive = s.alive ∧ t.diag = s.diag) ∨ t.alive = false := by
  rcases runWord_cases h with ⟨i, _, hi⟩ | ⟨_, rfl⟩
  · rcases exec_status hi with hkept | ⟨_, _, rfl⟩ | ⟨_, _, _, rfl⟩ | ⟨_, _, rfl⟩
    · exact .inl hkept
    all_goals exact .inr rfl
  · exact .inr rfl

/-- Settles O18: a halted request keeps the status; a running machine has it changed only by a fault, which halts the run. -/
theorem haltIsForGood : Obligations.HaltIsForGood := by
  intro s t h
  rcases step_cases h with ⟨ha, rfl⟩ | ⟨ha, u, hu, rfl⟩
  · exact ⟨fun _ => ⟨s.hostTurn_alive.trans ha, s.hostTurn_diag⟩, fun _ => s.hostTurn_diag⟩
  · refine ⟨fun hdead => absurd ha (by simp [hdead]), fun hlive => ?_⟩
    rcases runWord_status hu with ⟨_, hdiag⟩ | hdead
    · exact hdiag.trans s.hostTurn_diag
    · exact absurd hlive (by simp [hdead])

/-! ### Fault entry -/

/-- A word that selects no row is fault entry alone (60_exceptions.md R172). -/
theorem runWord_of_error {w : Word16} {e : Undefined} (h : decodeWord w = .error e) (s : State) :
    runWord w s = .next (s.raise .unknownOpcode w) := by
  simp only [runWord, h]

/-- Settles O20: the word run is fault entry, and the step is that and the tick. -/
theorem undefinedWordHalts : Obligations.UndefinedWordHalts := by
  intro s ha hnone
  obtain ⟨e, he⟩ := State.nextInstr_eq_none_iff.mp hnone
  have hrun := runWord_of_error he s.hostTurn.clearTrigger
  refine ⟨_, ?_, s.hostTurn.clearTrigger.raise_faultsWith .unknownOpcode s.fetchWord, step_of_alive ha hrun⟩
  rw [State.hostTurn_fetchWord]; exact hrun

/-- Settles O19: of what an instruction can do to the status, only its faults halt the run, and the word each reports, its
own encoding, is the word fetched (log 25). -/
theorem faultsArePrecise : Obligations.FaultsArePrecise := by
  intro s t ha h hdead
  rcases step_cases h with ⟨hhalted, _⟩ | ⟨_, u, hu, rfl⟩
  · exact absurd ha (by simp [hhalted])
  have hsp : s.hostTurn.clearTrigger.sp = s.sp := s.hostTurn_sp
  rcases runWord_cases hu with ⟨i, hi, hexec⟩ | ⟨hundefined, rfl⟩
  · have hnext : s.nextInstr = some i := State.nextInstr_eq_some_iff.mpr hi
    obtain ⟨hword, _⟩ := encodeOfDecode s.fetchWord i hi
    rw [← hword]
    rcases exec_status hexec with ⟨halive, _⟩ | ⟨nnn, rfl, rfl⟩ | ⟨nnn, rfl, hfull, rfl⟩ | ⟨rfl, hempty, rfl⟩
    · have hlive : u.alive = true := halive.trans (s.hostTurn_alive.trans ha)
      exact absurd hdead (by simp [hlive])
    · exact ⟨.unknownOpcode, rfl, .inr ⟨nnn, hnext⟩⟩
    · exact ⟨.stackOverflow, rfl, ⟨nnn, hnext⟩, Fin.ext (hsp ▸ hfull)⟩
    · exact ⟨.stackUnderflow, rfl, hnext, Fin.ext (hsp ▸ hempty)⟩
  · exact ⟨.unknownOpcode, rfl, .inl (State.nextInstr_eq_none_iff.mpr hundefined)⟩

end Sys2Proof.Machine
end

section
/-!
The tick along a step and along a run (60_exceptions.md R184 to R186).
-/

namespace Sys2Proof.Machine

/-! ### One tick -/

/-- A tick that begins with the trigger clear raises it exactly where it finds the sound timer 1 (60_exceptions.md R186;
D19, log 28). -/
theorem State.tick_trigger_iff {s : State} (ht : s.trigger = false) : s.tick.trigger = true ↔ s.st.toNat = 1 := by
  rw [State.tick_trigger, ht, Bool.false_or, beq_iff_eq, ← BitVec.toNat_inj]; rfl

/-- Settles O16: the word run completes with the trigger still clear, and the tick follows. -/
theorem tickAfterEveryStep : Obligations.TickAfterEveryStep := by
  intro s ha
  obtain ⟨u, hu⟩ := runWord_completes s.fetchWord s.hostTurn.clearTrigger
  obtain ⟨_, _, _, htrigger⟩ := runWord_keepsOutside hu
  have hrun : runWord s.hostTurn.fetchWord s.hostTurn.clearTrigger = .next u := by rw [State.hostTurn_fetchWord]; exact hu
  exact ⟨u, u.tick, hrun, step_of_alive ha hu, decTimer_toNat u.dt, decTimer_toNat u.st,
    State.tick_trigger_iff htrigger, rfl⟩

/-! ### The timers along a step -/

/-- Running a word leaves a timer alone unless the word is that timer's load (10_state.md R37). -/
theorem runWord_timers_of_no_load {w : Word16} {s t : State} (h : runWord w s = .next t) :
    ((∀ x, decodeWord w ≠ .ok (.ldDTVx x)) → t.dt = s.dt) ∧
    ((∀ x, decodeWord w ≠ .ok (.ldSTVx x)) → t.st = s.st) := by
  rcases runWord_cases h with ⟨i, hi, hexec⟩ | ⟨_, rfl⟩
  · obtain ⟨_, _, _, hdt, hst, _⟩ := otherWritersExactly i s t hexec
    exact ⟨fun hno => not_imp_comm.mp hdt fun ⟨x, hx⟩ => hno x (hx ▸ hi),
      fun hno => not_imp_comm.mp hst fun ⟨x, hx⟩ => hno x (hx ▸ hi)⟩
  · exact ⟨fun _ => rfl, fun _ => rfl⟩

/-- A live cycle that does not load a timer leaves it one less, with its floor at 0; the word may fault
(60_exceptions.md R184, R185; D7, log 17). -/
theorem step_timers_of_no_load {s t : State} (ha : s.alive = true) (h : step s = .next t) :
    ((∀ x, s.nextInstr ≠ some (.ldDTVx x)) → t.dt.toNat = s.dt.toNat - 1) ∧
    ((∀ x, s.nextInstr ≠ some (.ldSTVx x)) → t.st.toNat = s.st.toNat - 1) := by
  rcases step_cases h with ⟨hhalted, _⟩ | ⟨_, u, hu, rfl⟩
  · exact absurd ha (by simp [hhalted])
  obtain ⟨hdt, hst⟩ := runWord_timers_of_no_load hu
  refine ⟨fun hno => ?_, fun hno => ?_⟩
  · have hkept : u.dt = s.hostTurn.dt := hdt fun x hx => hno x (State.nextInstr_eq_some_iff.mpr hx)
    rw [State.tick_dt, decTimer_toNat, hkept, State.hostTurn_dt]
  · have hkept : u.st = s.hostTurn.st := hst fun x hx => hno x (State.nextInstr_eq_some_iff.mpr hx)
    rw [State.tick_st, decTimer_toNat, hkept, State.hostTurn_st]

/-- A live cycle that loads a timer from `V[X]` leaves it at `V[X]` less one, with its floor at 0 (60_exceptions.md R185). -/
theorem step_timers_of_load {x : Nibble} {s t : State} (ha : s.alive = true) (h : step s = .next t) :
    (s.nextInstr = some (.ldDTVx x) → t.dt.toNat = (s.getV x).toNat - 1) ∧
    (s.nextInstr = some (.ldSTVx x) → t.st.toNat = (s.getV x).toNat - 1) := by
  refine ⟨fun hi => ?_, fun hi => ?_⟩
  all_goals
    rw [step_of_decodeWord ha (State.nextInstr_eq_some_iff.mp hi)] at h
    obtain rfl := Host.Outcome.next.inj h
    rw [← s.hostTurn_getV x]
    exact decTimer_toNat _

/-! ### The timers along a run -/

theorem core_run_succ {n : Nat} {s t : State} (h : core.run (n + 1) s = .next t) :
    ∃ u, step s = .next u ∧ core.run n u = .next t := by
  simp only [Host.Core.run] at h
  split at h
  · next u hu => exact ⟨u, hu, h⟩
  · cases h
  · cases h

/-- A quantity that every step of a run takes one down, with its floor at 0, is after `n` steps `n` less. `Runs n s` says
that the run's next `n` steps from `s` are of that kind. -/
theorem run_countdown {timer : State → Nat} {Runs : Nat → State → Prop}
    (hstep : ∀ n s t, Runs (n + 1) s → step s = .next t → timer t = timer s - 1 ∧ Runs n t) (n : Nat) (s t : State)
    (hs : Runs n s) (h : core.run n s = .next t) : timer t = timer s - n := by
  induction n generalizing s with
  | zero => obtain rfl := Host.Outcome.next.inj h; rfl
  | succ n ih =>
    obtain ⟨u, hu, hrun⟩ := core_run_succ h
    obtain ⟨hdown, hrest⟩ := hstep n s u hs hu
    rw [ih u hrest hrun, hdown, Nat.sub_sub, Nat.add_comm]

/-- Settles O53: each timer counts down along a run that does not load it, and a load sets it before the cycle's tick. -/
theorem timerLaw : Obligations.TimerLaw := by
  refine ⟨run_countdown fun n s t hs h => ?dt, run_countdown fun n s t hs h => ?st,
    fun x s t ha h => step_timers_of_load ha h⟩
  case dt =>
    obtain ⟨ha, hno, hnext⟩ := hs
    exact ⟨(step_timers_of_no_load ha h).1 hno, hnext t h⟩
  case st =>
    obtain ⟨ha, hno, hnext⟩ := hs
    exact ⟨(step_timers_of_no_load ha h).2 hno, hnext t h⟩

end Sys2Proof.Machine
end

section
/-!
The loader and the boot order (70_reset_and_hazards.md R203 to R206): what one byte more writes, the addresses no byte
reaches, and the byte an address is left with.
-/

namespace Sys2Proof.Machine

/-- The last byte of a sequence is written last, after the address the others end at (70_reset_and_hazards.md R203). -/
theorem State.loadBytes_concat (bytes : List Byte) (b : Byte) (offset : Nat) (s : State) :
    State.loadBytes (bytes ++ [b]) offset s = (State.loadBytes bytes offset s).writeByte (offset + bytes.length) b := by
  induction bytes generalizing offset s with
  | nil => rfl
  | cons c bytes ih =>
    rw [List.cons_append, State.loadBytes, ih, State.loadBytes, Nat.add_right_comm]; rfl

/-- An address that no byte of the sequence reaches is as before. -/
theorem State.readByte_loadBytes_other (bytes : List Byte) (offset : Nat) (s : State) (a : Nat)
    (ha : ∀ j, j < bytes.length → a % 4096 ≠ (offset + j) % 4096) :
    (State.loadBytes bytes offset s).readByte a = s.readByte a := by
  induction bytes generalizing offset s with
  | nil => rfl
  | cons b bytes ih =>
    have hlater : ∀ j, j < bytes.length → a % 4096 ≠ (offset + 1 + j) % 4096 := fun j hj => by
      rw [Nat.add_right_comm]; exact ha (j + 1) (Nat.succ_lt_succ hj)
    rw [State.loadBytes, ih _ _ hlater]
    exact s.readByte_writeByte_of_ne b (ha 0 (Nat.succ_pos _))

/-- Settles O11: a sequence one byte longer is one write more, and no write touches anything but memory. -/
theorem loaderCopiesBytes : Obligations.LoaderCopiesBytes := by
  refine ⟨rfl, fun s bytes b offset a => ⟨rfl, ?oneMore, ?frame⟩⟩
  case oneMore => rw [State.loadBytes_concat, State.readByte_writeByte]
  case frame =>
    obtain ⟨m, hm⟩ := State.loadBytes_mem_only bytes offset s
    rw [hm]

/-- Settles O12, by induction on the sequence: its first byte stays where the rest does not reach it, and a later byte is one
of the rest. -/
theorem loaderLastByteWins : Obligations.LoaderLastByteWins := by
  intro s bytes offset k h hlast
  induction bytes generalizing s offset k with
  | nil => exact absurd h (Nat.not_lt_zero k)
  | cons b bytes ih =>
    have shift : ∀ j, offset + 1 + j = offset + (j + 1) := Nat.add_right_comm offset 1
    cases k with
    | zero =>
      have hrest : ∀ j, j < bytes.length → offset % 4096 ≠ (offset + 1 + j) % 4096 := fun j hj =>
        shift j ▸ (hlast (j + 1) (Nat.succ_pos j) (Nat.succ_lt_succ hj)).symm
      exact (State.readByte_loadBytes_other _ _ _ _ hrest).trans (s.readByte_writeByte_same offset b)
    | succ k =>
      have hrest := ih (s.writeByte offset b) (offset + 1) k (Nat.lt_of_succ_lt_succ h) fun j hkj hj => by
        rw [shift, shift]; exact hlast (j + 1) (Nat.succ_lt_succ hkj) (Nat.succ_lt_succ hj)
      rw [shift] at hrest; exact hrest

/-- Settles O23: the loader keeps memory canonical (log 27) and changes nothing that another clause speaks of. -/
theorem loaderKeepsInv : Obligations.LoaderKeepsInv := by
  intro s bytes offset hs
  have hwf := State.wf_loadBytes bytes offset s hs.memory
  obtain ⟨m, hm⟩ := State.loadBytes_mem_only bytes offset s
  obtain ⟨_, hpc, hi, hst, ha, hd, ht⟩ := hs
  rw [hm] at hwf ⊢
  exact ⟨hwf, hpc, hi, hst, ha, hd, ht⟩

/-- Settles O60: the loader leaves `pc`, the agenda is not memory, and the bytes stand as `loaderLastByteWins` says. -/
theorem bootLoadsAfterReset : Obligations.BootLoadsAfterReset := by
  refine fun program agenda => ⟨rfl, ?pc, fun k h hlast => loaderLastByteWins State.reset program 512 k h hlast⟩
  case pc =>
    obtain ⟨m, hm⟩ := State.loadBytes_mem_only program Config.loadOffset State.reset
    rw [boot, hm]; rfl

end Sys2Proof.Machine
end

section
/-!
Reset (70_reset_and_hazards.md R200, R201; 20_memory.md R60). The machine after reset is itself a machine to which reset has
been applied, so what holds of every reinitialised machine is said once.
-/

namespace Sys2Proof.Machine

theorem State.reinitialise_reset : State.reset.reinitialise = State.reset := rfl

/-- A machine to which nothing has been written reads as its fonts and the zero fill (20_memory.md R60). -/
theorem State.readByte_of_mem_nil {s : State} (hs : s.mem = []) {a : Nat} (ha : a < 4096) :
    s.readByte a = Memory.unlisted s.fonts a := by
  rw [State.readByte, hs, Memory.read, Nat.mod_eq_of_lt ha]; rfl

/-- The three ranges of the memory map (20_memory.md R60; D17, D18). -/
theorem State.memoryMap_of_mem_nil {s : State} (hs : s.mem = []) :
    (∀ a : Fin 80, s.readByte a = s.fonts.lo[a]) ∧ (∀ a : Fin 160, s.readByte (0x050 + a) = s.fonts.hi[a]) ∧
    ∀ a : Nat, 0x0F0 ≤ a → a < 4096 → s.readByte a = 0x00#8 := by
  refine ⟨fun a => ?lo, fun a => ?hi, fun a hlow hhigh => ?fill⟩
  case lo =>
    rw [State.readByte_of_mem_nil hs (by omega), Memory.unlisted, dif_pos a.isLt]; rfl
  case hi =>
    have hoff : 0x050 + a.val - 80 = a.val := Nat.add_sub_cancel_left 80 a.val
    rw [State.readByte_of_mem_nil hs (by omega), Memory.unlisted, dif_neg (by omega), dif_pos (by omega)]
    simp only [hoff, Fin.getElem_fin]
  case fill =>
    rw [State.readByte_of_mem_nil hs hhigh, Memory.unlisted, dif_neg (by omega), dif_neg (by omega)]; rfl

theorem State.reset_stack (k : Fin 16) : State.reset.stack[k] = 0x0000#16 := by
  simp only [State.reset, Fin.getElem_fin, Vector.getElem_replicate]

theorem State.reset_keyDown (k : Nibble) : State.reset.keyDown k = false := by
  simp only [State.keyDown, State.reset, Vector.getElem_replicate]; rfl

/-- Settles O10: the registers and the rest by the value reset gives them, memory by its map, which both machines have. -/
theorem resetValues : Obligations.ResetValues := by
  obtain ⟨hlo, hhi, hfill⟩ := State.memoryMap_of_mem_nil (s := State.reset) rfl
  refine ⟨rfl, rfl, rfl, State.reset_stack, rfl, rfl, cell_blankDisplay, State.reset_keyDown, rfl, rfl, rfl, rfl,
    hlo, hhi, hfill, fun s => ?again⟩
  case again =>
    obtain ⟨hlo', hhi', hfill'⟩ := State.memoryMap_of_mem_nil (s := s.reinitialise) rfl
    exact ⟨fun _ => rfl, rfl, rfl, ⟨rfl, rfl⟩, ⟨rfl, rfl⟩, ⟨rfl, rfl⟩, rfl, rfl, rfl, rfl, hlo', hhi', hfill', rfl, rfl,
      rfl, rfl⟩

/-- Reset leaves nothing written, whatever the fonts, and sets `pc`, `I` and the stack entries to 12-bit values. -/
theorem State.reinitialise_inRange (s : State) : InRange s.reinitialise := by
  have hpc : State.reset.pc.toNat < 4096 := by decide
  have hi : State.reset.i.toNat < 4096 := by decide
  have hst : ∀ k : Fin 16, State.reset.stack[k].toNat < 4096 := fun k => by rw [State.reset_stack]; decide
  exact ⟨Memory.wf_nil s.fonts, hpc, hi, hst⟩

theorem State.reinitialise_inv (s : State) : Inv s.reinitialise := s.reinitialise_inRange.inv rfl rfl rfl

/-- Settles O21: the machine after reset is the case of reset applied to itself. -/
theorem resetMeetsInv : Obligations.ResetMeetsInv :=
  ⟨State.reinitialise_reset ▸ State.reset.reinitialise_inv, State.reinitialise_inv⟩

end Sys2Proof.Machine
end

section
/-!
Completion of every cycle request (70_reset_and_hazards.md R222).
-/

namespace Sys2Proof.Machine

/-- Settles O15: a halted request is an equation, and a running machine's word completes, a faulting one among them (log 9). -/
theorem stepAlwaysCompletes : Obligations.StepAlwaysCompletes := by
  intro s
  cases ha : s.alive with
  | false => exact ⟨_, step_of_halted ha⟩
  | true =>
    obtain ⟨u, hu⟩ := runWord_completes s.fetchWord s.hostTurn.clearTrigger
    exact ⟨u.tick, step_of_alive ha hu⟩

end Sys2Proof.Machine
end
